-- ==== Sys2Proof/Word.lean ====
section
/-! DEFINITION. The word types of the machine: R8 (sizes), R11 (bit numbering: bit 0 is the least significant). -/

namespace Sys2Proof

/-- One byte: a general register, a timer or a memory cell (R8). -/
abbrev Byte := BitVec 8

/-- Sixteen bits: an instruction word, `pc`, `I` or a stack entry (R8, R29). -/
abbrev Word := BitVec 16

/-- The 12-bit address immediate `nnn` (R83). -/
abbrev Imm12 := BitVec 12

/-- A register number: `V[0]`-`V[15]`, selected by a 4-bit field (R22, R84). -/
abbrev Reg := Fin 16

/-- A key code 0x0-0xF (R37). -/
abbrev Key := Fin 16

/-- `VF`, register 15: the implicit flag register (R24). -/
abbrev flagReg : Reg := 15

end Sys2Proof
end

