-- ==== Sys2Proof/Syntax.lean ====
section
/-! DEFINITION. The syntax of the instruction set: one constructor per row of R86 (spec/opcode_table.json), in its order. -/

namespace Sys2Proof

/-- The 35 instructions of R86. A register field is a `Reg`, `nn` a byte, `nnn` a 12-bit address, `n` a count 0-15 (R83, R84). -/
inductive Instr where
  /-- 00E0 `CLS` (R221). -/
  | cls
  /-- 00EE `RET` (R121). -/
  | ret
  /-- 0nnn `SYS nnn` (R120). -/
  | sys (nnn : Imm12)
  /-- 1nnn `JP nnn` (R122). -/
  | jp (nnn : Imm12)
  /-- 2nnn `CALL nnn` (R123). -/
  | call (nnn : Imm12)
  /-- 3xnn `SE Vx, nn` (R124). -/
  | seImm (x : Reg) (nn : Byte)
  /-- 4xnn `SNE Vx, nn` (R125). -/
  | sneImm (x : Reg) (nn : Byte)
  /-- 5xy0 `SE Vx, Vy` (R126). -/
  | seReg (x y : Reg)
  /-- 6xnn `LD Vx, nn` (R151). -/
  | ldImm (x : Reg) (nn : Byte)
  /-- 7xnn `ADD Vx, nn` (R152). -/
  | addImm (x : Reg) (nn : Byte)
  /-- 8xy0 `LD Vx, Vy` (R153). -/
  | ldReg (x y : Reg)
  /-- 8xy1 `OR Vx, Vy` (R154). -/
  | orReg (x y : Reg)
  /-- 8xy2 `AND Vx, Vy` (R155). -/
  | andReg (x y : Reg)
  /-- 8xy3 `XOR Vx, Vy` (R156). -/
  | xorReg (x y : Reg)
  /-- 8xy4 `ADD Vx, Vy` (R157). -/
  | addReg (x y : Reg)
  /-- 8xy5 `SUB Vx, Vy` (R158). -/
  | sub (x y : Reg)
  /-- 8xy6 `SHR Vx, Vy` (R159). -/
  | shr (x y : Reg)
  /-- 8xy7 `SUBN Vx, Vy` (R160). -/
  | subn (x y : Reg)
  /-- 8xyE `SHL Vx, Vy` (R161). -/
  | shl (x y : Reg)
  /-- 9xy0 `SNE Vx, Vy` (R127). -/
  | sneReg (x y : Reg)
  /-- Annn `LD I, nnn` (R191). -/
  | ldI (nnn : Imm12)
  /-- Bnnn `JP V0, nnn` (R128). -/
  | jpV0 (nnn : Imm12)
  /-- Cxnn `RND Vx, nn` (R163). -/
  | rnd (x : Reg) (nn : Byte)
  /-- Dxyn `DRW Vx, Vy, n` (R222). -/
  | drw (x y : Reg) (n : Fin 16)
  /-- Ex9E `SKP Vx` (R241). -/
  | skp (x : Reg)
  /-- ExA1 `SKNP Vx` (R242). -/
  | sknp (x : Reg)
  /-- Fx07 `LD Vx, DT` (R245). -/
  | ldVxDt (x : Reg)
  /-- Fx0A `LD Vx, K` (R243). -/
  | ldVxK (x : Reg)
  /-- Fx15 `LD DT, Vx` (R246). -/
  | ldDtVx (x : Reg)
  /-- Fx18 `LD ST, Vx` (R247). -/
  | ldStVx (x : Reg)
  /-- Fx1E `ADD I, Vx` (R192). -/
  | addI (x : Reg)
  /-- Fx29 `LD F, Vx` (R193). -/
  | ldF (x : Reg)
  /-- Fx33 `LD B, Vx` (R194). -/
  | ldB (x : Reg)
  /-- Fx55 `LD [I], Vx` (R195). -/
  | storeRegs (x : Reg)
  /-- Fx65 `LD Vx, [I]` (R196). -/
  | loadRegs (x : Reg)
deriving DecidableEq, Repr

end Sys2Proof
end

