-- ==== Sys2Proof/Decode.lean ====
section
/-! DEFINITION. The decoder (R81-R89, R92, R100), total on every word and every byte string, the encoder (R82, R99), and the
dispatch table of R86 as rows of a match and a mask. -/

namespace Sys2Proof

/-! ## The fields of a word (R81) -/

/-- `op = w[15:12]` (R81). -/
def fieldOp (w : Word) : Fin 16 := (w.extractLsb 15 12).toFin

/-- `x = w[11:8]`, a register selector (R81). -/
def fieldX (w : Word) : Reg := (w.extractLsb 11 8).toFin

/-- `y = w[7:4]`, a register selector (R81). -/
def fieldY (w : Word) : Reg := (w.extractLsb 7 4).toFin

/-- `n = w[3:0]`, a count or a function code (R81). -/
def fieldN (w : Word) : Fin 16 := (w.extractLsb 3 0).toFin

/-- `nn = w[7:0]`, an immediate or a function code (R81). -/
def fieldNN (w : Word) : Byte := w.extractLsb 7 0

/-- `nnn = w[11:0]`, an address immediate (R81). -/
def fieldNNN (w : Word) : Imm12 := w.extractLsb 11 0

/-! ## The decoder -/

/-- What a word decodes to (R92, R100): an instruction of R86, or one of the two reserved classes, by name. -/
inductive Decoded where
  /-- The word selects a row of R86. -/
  | instr (i : Instr)
  /-- R88: the word matches no row; it runs as a silent no-op. -/
  | unrecognized (w : Word)
  /-- R89: `5xyN` with N ≠ 0; it runs as a reported no-op. -/
  | malformed (w : Word)
deriving DecidableEq, Repr

/-- Group 0 (R85, R87): 00E0 and 00EE are matched on all 16 bits, every other word is SYS. -/
def decodeGroup0 (w : Word) : Decoded :=
  if w = 0x00E0 then .instr .cls
  else if w = 0x00EE then .instr .ret
  else .instr (.sys (fieldNNN w))

/-- Group 5 (R85, R89): `n = 0` is SE-register, any other `n` is malformed. -/
def decodeGroup5 (w : Word) : Decoded :=
  if fieldN w = 0 then .instr (.seReg (fieldX w) (fieldY w)) else .malformed w

/-- Group 8 (R85): `n` selects among nine ALU functions. -/
def decodeGroup8 (w : Word) : Decoded :=
  match (fieldN w).val with
  | 0x0 => .instr (.ldReg (fieldX w) (fieldY w))
  | 0x1 => .instr (.orReg (fieldX w) (fieldY w))
  | 0x2 => .instr (.andReg (fieldX w) (fieldY w))
  | 0x3 => .instr (.xorReg (fieldX w) (fieldY w))
  | 0x4 => .instr (.addReg (fieldX w) (fieldY w))
  | 0x5 => .instr (.sub (fieldX w) (fieldY w))
  | 0x6 => .instr (.shr (fieldX w) (fieldY w))
  | 0x7 => .instr (.subn (fieldX w) (fieldY w))
  | 0xE => .instr (.shl (fieldX w) (fieldY w))
  | _ => .unrecognized w

/-- Group 9 (R85, R88): `n = 0` is SNE-register, any other `n` is unrecognized. -/
def decodeGroup9 (w : Word) : Decoded :=
  if fieldN w = 0 then .instr (.sneReg (fieldX w) (fieldY w)) else .unrecognized w

/-- Group E (R85): `nn` selects SKP or SKNP. -/
def decodeGroupE (w : Word) : Decoded :=
  match (fieldNN w).toNat with
  | 0x9E => .instr (.skp (fieldX w))
  | 0xA1 => .instr (.sknp (fieldX w))
  | _ => .unrecognized w

/-- Group F (R85): `nn` selects among nine functions. -/
def decodeGroupF (w : Word) : Decoded :=
  match (fieldNN w).toNat with
  | 0x07 => .instr (.ldVxDt (fieldX w))
  | 0x0A => .instr (.ldVxK (fieldX w))
  | 0x15 => .instr (.ldDtVx (fieldX w))
  | 0x18 => .instr (.ldStVx (fieldX w))
  | 0x1E => .instr (.addI (fieldX w))
  | 0x29 => .instr (.ldF (fieldX w))
  | 0x33 => .instr (.ldB (fieldX w))
  | 0x55 => .instr (.storeRegs (fieldX w))
  | 0x65 => .instr (.loadRegs (fieldX w))
  | _ => .unrecognized w

/-- `decode(w)` (R92): the top nibble selects the group (R85). It reads nothing but the word. -/
def decode (w : Word) : Decoded :=
  match (fieldOp w).val with
  | 0x0 => decodeGroup0 w
  | 0x1 => .instr (.jp (fieldNNN w))
  | 0x2 => .instr (.call (fieldNNN w))
  | 0x3 => .instr (.seImm (fieldX w) (fieldNN w))
  | 0x4 => .instr (.sneImm (fieldX w) (fieldNN w))
  | 0x5 => decodeGroup5 w
  | 0x6 => .instr (.ldImm (fieldX w) (fieldNN w))
  | 0x7 => .instr (.addImm (fieldX w) (fieldNN w))
  | 0x8 => decodeGroup8 w
  | 0x9 => decodeGroup9 w
  | 0xA => .instr (.ldI (fieldNNN w))
  | 0xB => .instr (.jpV0 (fieldNNN w))
  | 0xC => .instr (.rnd (fieldX w) (fieldNN w))
  | 0xD => .instr (.drw (fieldX w) (fieldY w) (fieldN w))
  | 0xE => decodeGroupE w
  | _ => decodeGroupF w

/-! ## The bytes of a word (R61: big-endian) -/

/-- R61: the byte at the lower address is `w[15:8]`. -/
def wordOfBytes (hi lo : Byte) : Word := hi ++ lo

/-- The byte of a word that lies at the lower address (R61). -/
def highByte (w : Word) : Byte := w.extractLsb 15 8

/-- The byte of a word that lies at the higher address (R61). -/
def lowByte (w : Word) : Byte := w.extractLsb 7 0

/-- What the first bytes of a byte string decode to: an instruction is always 2 bytes (R80). -/
inductive DecodedBytes where
  /-- Two bytes make a word; the rest follows it. -/
  | word (d : Decoded) (rest : List Byte)
  /-- Fewer than two bytes: no instruction stands there. -/
  | tooShort
deriving DecidableEq, Repr

/-- The decoder on any bytes (R61, R80, R92). -/
def decodeBytes : List Byte → DecodedBytes
  | hi :: lo :: rest => .word (decode (wordOfBytes hi lo)) rest
  | _ => .tooShort

/-- The instruction word of a table word: the table numbers bit 0 as the word's least significant bit, and bits above `nbits`
are 0. -/
def tableWord (nbits w : Nat) : Word := BitVec.ofNat 16 (w % 2 ^ nbits)

/-- The instruction the decoder reads from a table word laid out in memory order. -/
def decodeTableWord (nbits w : Nat) : Option Instr :=
  match decodeBytes [highByte (tableWord nbits w), lowByte (tableWord nbits w)] with
  | .word (.instr i) _ => some i
  | _ => none

/-! ## The encoder (R82, R99) -/

/-- A register number or count as a 4-bit field. -/
def nibble (r : Fin 16) : BitVec 4 := BitVec.ofFin r

/-- Format `NNN` (R82). -/
def wordNNN (op : BitVec 4) (nnn : Imm12) : Word := op ++ nnn

/-- Formats `XNN` and `XF` (R82). -/
def wordXNN (op : BitVec 4) (x : Reg) (nn : Byte) : Word := op ++ nibble x ++ nn

/-- Formats `XYN` and `XYF` (R82). -/
def wordXYN (op : BitVec 4) (x y : Reg) (n : BitVec 4) : Word := op ++ nibble x ++ nibble y ++ n

/-- The word of an instruction: the fields filled in by R81 in reverse (R82, R86, R99). -/
def encode : Instr → Word
  | .cls => 0x00E0
  | .ret => 0x00EE
  | .sys nnn => wordNNN 0x0 nnn
  | .jp nnn => wordNNN 0x1 nnn
  | .call nnn => wordNNN 0x2 nnn
  | .seImm x nn => wordXNN 0x3 x nn
  | .sneImm x nn => wordXNN 0x4 x nn
  | .seReg x y => wordXYN 0x5 x y 0x0
  | .ldImm x nn => wordXNN 0x6 x nn
  | .addImm x nn => wordXNN 0x7 x nn
  | .ldReg x y => wordXYN 0x8 x y 0x0
  | .orReg x y => wordXYN 0x8 x y 0x1
  | .andReg x y => wordXYN 0x8 x y 0x2
  | .xorReg x y => wordXYN 0x8 x y 0x3
  | .addReg x y => wordXYN 0x8 x y 0x4
  | .sub x y => wordXYN 0x8 x y 0x5
  | .shr x y => wordXYN 0x8 x y 0x6
  | .subn x y => wordXYN 0x8 x y 0x7
  | .shl x y => wordXYN 0x8 x y 0xE
  | .sneReg x y => wordXYN 0x9 x y 0x0
  | .ldI nnn => wordNNN 0xA nnn
  | .jpV0 nnn => wordNNN 0xB nnn
  | .rnd x nn => wordXNN 0xC x nn
  | .drw x y n => wordXYN 0xD x y (nibble n)
  | .skp x => wordXNN 0xE x 0x9E
  | .sknp x => wordXNN 0xE x 0xA1
  | .ldVxDt x => wordXNN 0xF x 0x07
  | .ldVxK x => wordXNN 0xF x 0x0A
  | .ldDtVx x => wordXNN 0xF x 0x15
  | .ldStVx x => wordXNN 0xF x 0x18
  | .addI x => wordXNN 0xF x 0x1E
  | .ldF x => wordXNN 0xF x 0x29
  | .ldB x => wordXNN 0xF x 0x33
  | .storeRegs x => wordXNN 0xF x 0x55
  | .loadRegs x => wordXNN 0xF x 0x65

/-- The bytes of an instruction in memory order (R61). -/
def encodeBytes (i : Instr) : List Byte := [highByte (encode i), lowByte (encode i)]

/-! ## The dispatch table (R86) -/

/-- A row of R86: a word selects it when `(w & mask) = pat`. -/
structure OpcodeRow where
  /-- The column "match". -/
  pat : Word
  /-- The column "mask". -/
  mask : Word
deriving DecidableEq, Repr

/-- R86's condition for a word to select a row. -/
def OpcodeRow.selects (r : OpcodeRow) (w : Word) : Bool := w &&& r.mask == r.pat

/-- The row of R86 that an instruction stands in. -/
def Instr.row : Instr → OpcodeRow
  | .cls => ⟨0x00E0, 0xFFFF⟩
  | .ret => ⟨0x00EE, 0xFFFF⟩
  | .sys _ => ⟨0x0000, 0xF000⟩
  | .jp _ => ⟨0x1000, 0xF000⟩
  | .call _ => ⟨0x2000, 0xF000⟩
  | .seImm _ _ => ⟨0x3000, 0xF000⟩
  | .sneImm _ _ => ⟨0x4000, 0xF000⟩
  | .seReg _ _ => ⟨0x5000, 0xF00F⟩
  | .ldImm _ _ => ⟨0x6000, 0xF000⟩
  | .addImm _ _ => ⟨0x7000, 0xF000⟩
  | .ldReg _ _ => ⟨0x8000, 0xF00F⟩
  | .orReg _ _ => ⟨0x8001, 0xF00F⟩
  | .andReg _ _ => ⟨0x8002, 0xF00F⟩
  | .xorReg _ _ => ⟨0x8003, 0xF00F⟩
  | .addReg _ _ => ⟨0x8004, 0xF00F⟩
  | .sub _ _ => ⟨0x8005, 0xF00F⟩
  | .shr _ _ => ⟨0x8006, 0xF00F⟩
  | .subn _ _ => ⟨0x8007, 0xF00F⟩
  | .shl _ _ => ⟨0x800E, 0xF00F⟩
  | .sneReg _ _ => ⟨0x9000, 0xF00F⟩
  | .ldI _ => ⟨0xA000, 0xF000⟩
  | .jpV0 _ => ⟨0xB000, 0xF000⟩
  | .rnd _ _ => ⟨0xC000, 0xF000⟩
  | .drw _ _ _ => ⟨0xD000, 0xF000⟩
  | .skp _ => ⟨0xE09E, 0xF0FF⟩
  | .sknp _ => ⟨0xE0A1, 0xF0FF⟩
  | .ldVxDt _ => ⟨0xF007, 0xF0FF⟩
  | .ldVxK _ => ⟨0xF00A, 0xF0FF⟩
  | .ldDtVx _ => ⟨0xF015, 0xF0FF⟩
  | .ldStVx _ => ⟨0xF018, 0xF0FF⟩
  | .addI _ => ⟨0xF01E, 0xF0FF⟩
  | .ldF _ => ⟨0xF029, 0xF0FF⟩
  | .ldB _ => ⟨0xF033, 0xF0FF⟩
  | .storeRegs _ => ⟨0xF055, 0xF0FF⟩
  | .loadRegs _ => ⟨0xF065, 0xF0FF⟩

end Sys2Proof
end

