-- ==== Sys2Proof/Config.lean ====
section
/-! DEFINITION. What an implementation fixes (the named parameters of R9) and the free values of the machine (the two
oracle draws of R10). The default values of the parameters stand in `Machine/Defaults.lean`. -/

namespace Sys2Proof

/-- The parameters of R9. A State carries one (`State.cfg`), no operation changes it, and a statement about every State is
therefore a statement about every value of every parameter (R18 "OPEN"). -/
structure Config where
  /-- STACK_DEPTH (R9, R29): a natural number ≥ 1, default 16. -/
  stackDepth : Nat
  /-- STEPS_PER_TICK (R9, R317): default 10. -/
  stepsPerTick : Nat
  /-- SHIFT_USES_VY (R9, R159, R161): default false. -/
  shiftUsesVy : Bool
  /-- BLOCK_INCREMENTS_I (R9, R195, R196): default false. -/
  blockIncrementsI : Bool
  /-- FX0A_REMOVES_KEY (R9, R243): default true. -/
  fx0aRemovesKey : Bool
  /-- The part of FONT (R27) that the source does not fix: glyphs 1 to E, 14 × 5 bytes. Glyphs 0 and F are fixed
  (`Machine.glyph0`, `Machine.glyphF`). -/
  glyphs1toE : Vector Byte 70
deriving DecidableEq, Repr

namespace Config

/-- R9: STACK_DEPTH is "natural ≥ 1". -/
abbrev wellFormed (c : Config) : Prop := 1 ≤ c.stackDepth

/-- FREE VALUE (R10, R163): the byte that the `n`-th oracle draw of a run answers to `draw_byte()`. Nothing constrains it. -/
opaque freeByte : Nat → Byte

/-- FREE VALUE (R10, R244): the place, in the list of the held keys, that the `n`-th oracle draw of a run answers to
`draw_key(S)` (`Machine.pickKey` turns it into a member of `S`). Nothing constrains it. -/
opaque freeKeyPlace : Nat → Nat

end Config

end Sys2Proof
end

