-- ==== Sys2Proof/Machine/Defaults.lean ====
section
/-! DEFINITION. The default values of the parameters (R9) and the font table (R27). -/

namespace Sys2Proof.Machine

/-- Glyph 0, fixed by the source (R27). -/
def glyph0 : List Byte := [0xF0, 0x90, 0x90, 0x90, 0xF0]

/-- Glyph F, fixed by the source (R27). -/
def glyphF : List Byte := [0xF0, 0x80, 0xF0, 0x80, 0x80]

/-- The default rows of glyphs 1-5 (R27; "from general knowledge, not in source", log entry 10). -/
def glyphs1to5 : List Byte :=
  [0x20, 0x60, 0x20, 0x20, 0x70] ++ [0xF0, 0x10, 0xF0, 0x80, 0xF0] ++ [0xF0, 0x10, 0xF0, 0x10, 0xF0] ++
  [0x90, 0x90, 0xF0, 0x10, 0x10] ++ [0xF0, 0x80, 0xF0, 0x10, 0xF0]

/-- The default rows of glyphs 6-A (R27; log entry 10). -/
def glyphs6toA : List Byte :=
  [0xF0, 0x80, 0xF0, 0x90, 0xF0] ++ [0xF0, 0x10, 0x20, 0x40, 0x40] ++ [0xF0, 0x90, 0xF0, 0x90, 0xF0] ++
  [0xF0, 0x90, 0xF0, 0x10, 0xF0] ++ [0xF0, 0x90, 0xF0, 0x90, 0x90]

/-- The default rows of glyphs B-E (R27; log entry 10). -/
def glyphsBtoE : List Byte :=
  [0xE0, 0x90, 0xE0, 0x90, 0xE0] ++ [0xF0, 0x80, 0x80, 0x80, 0xF0] ++ [0xE0, 0x90, 0x90, 0x90, 0xE0] ++
  [0xF0, 0x80, 0xF0, 0x80, 0xF0]

/-- The default of the open part of FONT (R27). -/
def defaultGlyphs : Vector Byte 70 := ⟨(glyphs1to5 ++ glyphs6toA ++ glyphsBtoE).toArray, rfl⟩

/-- The default value of every parameter (R9). -/
def defaultConfig : Config where
  stackDepth := 16
  stepsPerTick := 10
  shiftUsesVy := false
  blockIncrementsI := false
  fx0aRemovesKey := true
  glyphs1toE := defaultGlyphs

/-- Byte `a` of FONT (R27), 0 ≤ a < 80: glyph `d` takes bytes `5d .. 5d+4`. -/
def fontByte (cfg : Config) (a : Nat) : Byte :=
  if a < 5 then glyph0.getD a 0
  else if h : a < 75 then cfg.glyphs1toE[a - 5]
  else glyphF.getD (a - 75) 0

/-- What an address that memory does not list reads as: the reset contents of R20 and R67, the font at 0x000-0x04F and zero
everywhere else. -/
def resetByte (cfg : Config) (a : Nat) : Byte := if a < 80 then fontByte cfg a else 0

end Sys2Proof.Machine
end

