-- ==== Sys2Proof/Machine/State.lean ====
section
/-! DEFINITION. The Machine (R20): its whole state as plain data, the reports it gives the host (R270), and reset (R310). -/

namespace Sys2Proof.Machine

/-- The reasons for which `exec` or `step` stop with a fault: NONE. Every condition of R270 that a step can meet has an effect
the spec describes (R272, R275), so it is a next state here, and R291 says a step always returns. Nobody raises a fault. Safe. -/
inductive Fault
deriving DecidableEq, Repr

/-- The reasons for which an instruction has no meaning. -/
inductive Refusal where
  /-- Raised by an arm of `exec` whose instruction has no meaning yet; no arm is left so. Safe: nothing is proved of it. -/
  | notModelled (mnemonic : String)
deriving DecidableEq, Repr

/-- The terminal conditions (R270, R272). -/
inductive Terminal where
  /-- Code 2: a step whose `pc_fetch > 0xFFE` (R91, R274). -/
  | overrun
  /-- Code 3: 2nnn on a full stack (R276). -/
  | stackOverflow
  /-- Code 4: 00EE on an empty stack (R277). -/
  | stackUnderflow
deriving DecidableEq, Repr

/-- The halt latch (R35). -/
inductive Status where
  /-- The value after reset. -/
  | running
  /-- A terminal condition was raised (R272). -/
  | halted (code : Terminal)
deriving DecidableEq, Repr

/-- What an operation of R290 returns to the host: the conditions of R270 with the information they record. -/
inductive Report where
  /-- Code 0, `Ok`. -/
  | ok
  /-- Code 1, `Malformed(w, pc_fetch)` (R275). -/
  | malformed (w : Word) (pcFetch : Word)
  /-- Codes 2-4, `Fault(C, pc_fetch)` (R272). -/
  | fault (code : Terminal) (pcFetch : Word)
  /-- Code 16, `RomTooLarge`, also called `OutOfBounds` (R312). -/
  | romTooLarge (length : Nat)
  /-- Code 17, `RomNotFound` (R313). -/
  | romNotFound
deriving DecidableEq, Repr

/-- Memory: the (address, byte) pairs that differ from the reset contents, addresses strictly rising (`Mem.wf`). -/
abbrev Mem := List Host.Cell

/-- The Machine (R20), with two fields of the model's own at its end: the parameters of R9 and the place in the oracle (R10). -/
structure State where
  /-- `mem[0..4095]`, where it differs from the reset contents (R20, R60). -/
  mem : Mem
  /-- `V[0..15]` (R22). -/
  v : Vector Byte 16
  /-- `I`, the source's `index` (R26). -/
  index : Word
  /-- `pc` (R28). -/
  pc : Word
  /-- `stack`, the last pushed entry last (R29, R31). -/
  stack : List Word
  /-- `DT` (R32). -/
  dt : Byte
  /-- `ST` (R33). -/
  st : Byte
  /-- `Disp[0..2047]`: bit `j` is the pixel `Disp[j]` (R34). -/
  disp : BitVec 2048
  /-- `Keys`: entry `k` is true exactly when key `k` is held (R37). -/
  keys : Vector Bool 16
  /-- `paused` (R38). -/
  paused : Bool
  /-- `status` (R35). -/
  status : Status
  /-- `malformed_count`, an unbounded natural number (R36). -/
  malformedCount : Nat
  /-- The model's own: the values of the parameters of R9. No operation changes it. -/
  cfg : Config
  /-- The model's own: how many oracle draws (R10) the run has made. -/
  draws : Nat
deriving DecidableEq, Repr

/-- The entry point (R314), `ROM_BASE` (R8). -/
def romBase : Nat := 0x200

/-- `ROM_MAX`, 4096 − 512 bytes (R8). -/
def romMax : Nat := 3584

/-- `new_machine()` (R310): every field at its reset value. Parameters and oracle are no state of the block (R21), so they are
handed on. -/
def newMachine (cfg : Config) (draws : Nat) : State where
  mem := []
  v := Vector.replicate 16 0
  index := 0
  pc := 0x200
  stack := []
  dt := 0
  st := 0
  disp := 0
  keys := Vector.replicate 16 false
  paused := false
  status := .running
  malformedCount := 0
  cfg := cfg
  draws := draws

/-- The machine right after reset: `new_machine()` (R310) at the default parameters (R9), no oracle draw made (log entry 3). -/
def State.reset : State := newMachine defaultConfig 0

end Sys2Proof.Machine
end

