-- ==== Sys2Proof/Machine/Ops.lean ====
section
/-! DEFINITION. The named operations over memory, registers, stack, keys, pixels and the oracle (R13, R31), and the one
operation that raises a terminal condition (R272). -/

namespace Sys2Proof.Machine

/-! ## Memory cells -/

/-- The byte listed at an address. -/
def Mem.lookup : Mem → Nat → Option Byte
  | [], _ => none
  | (k, b) :: m, a => if k = a then some b else Mem.lookup m a

/-- The list without the entry of an address. -/
def Mem.erase (m : Mem) (a : Nat) : Mem := m.filter fun c => c.1 != a

/-- The list with an entry for an address, addresses rising. -/
def Mem.insert : Mem → Nat → Byte → Mem
  | [], a, v => [(a, v)]
  | (k, b) :: m, a, v =>
    if a < k then (a, v) :: (k, b) :: m
    else if a = k then (a, v) :: m
    else (k, b) :: Mem.insert m a v

/-- The byte at an address: what the list says, else the reset contents (R20, R67). -/
def Mem.read (cfg : Config) (m : Mem) (a : Nat) : Byte := (Mem.lookup m a).getD (resetByte cfg a)

/-- The memory with a byte written: an entry equal to the reset contents is not listed. -/
def Mem.write (cfg : Config) (m : Mem) (a : Nat) (v : Byte) : Mem :=
  if v = resetByte cfg a then Mem.erase m a else Mem.insert m a v

/-- The canonical form: addresses strictly rising and below 4096, no entry equal to the reset contents. -/
abbrev Mem.wf (cfg : Config) (m : Mem) : Prop :=
  m.Pairwise (fun p q => p.1 < q.1) ∧ ∀ c ∈ m, c.1 < 4096 ∧ c.2 ≠ resetByte cfg c.1

namespace State

/-- `MemRead(addr, 1)` (R13, R62): the byte at `addr mod 4096`. -/
def readMem (s : State) (addr : Nat) : Byte := Mem.read s.cfg s.mem (addr % 4096)

/-- `MemWrite(addr, 1, v)` (R13, R62): stores at `addr mod 4096`. -/
def writeMem (s : State) (addr : Nat) (b : Byte) : State :=
  { s with mem := Mem.write s.cfg s.mem (addr % 4096) b }

/-! ## Registers -/

/-- `V[i]` (R13). -/
def readV (s : State) (r : Reg) : Byte := s.v[r]

/-- `V[i] <- v` (R13, R23). -/
def writeV (s : State) (r : Reg) (b : Byte) : State := { s with v := s.v.set r b }

/-- `I <- v` (R13). -/
def setIndex (s : State) (w : Word) : State := { s with index := w }

/-- `pc <- target` (R13). -/
def setPc (s : State) (w : Word) : State := { s with pc := w }

/-- `DT <- v` (R13). -/
def setDt (s : State) (b : Byte) : State := { s with dt := b }

/-- `ST <- v` (R13). -/
def setSt (s : State) (b : Byte) : State := { s with st := b }

/-- The provisional pc (R93): from `pc_fetch` to `pc_fetch + 2`. -/
def advance (s : State) : State := { s with pc := s.pc + 2 }

/-- Skip the next instruction (R130) when a condition holds: `pc <- pc + 2` on top of the provisional advance. -/
def skipIf (s : State) (c : Bool) : State := if c then { s with pc := s.pc + 2 } else s

/-- R25: where an instruction writes a data result and a flag, the data write comes first and the flag write second. -/
def writeDataThenFlag (s : State) (x : Reg) (data flag : Byte) : State :=
  (s.writeV x data).writeV flagReg flag

/-! ## Stack and conditions -/

/-- `Push(a)` (R31): StackOverflow when the stack holds STACK_DEPTH entries. -/
def push (s : State) (a : Word) : Except Terminal State :=
  if s.stack.length = s.cfg.stackDepth then .error .stackOverflow
  else .ok { s with stack := s.stack ++ [a] }

/-- `Pop()` (R31): the last entry and the machine without it; StackUnderflow when there is none. -/
def pop (s : State) : Except Terminal (Word × State) :=
  match s.stack.getLast? with
  | none => .error .stackUnderflow
  | some a => .ok (a, { s with stack := s.stack.dropLast })

/-- `raise C` (R272): the step's writes are discarded, so `s` is the machine from before the step; only `status` changes. -/
def raise (s : State) (c : Terminal) : State := { s with status := .halted c }

/-- Commit (R95): a step that raised nothing leaves what it wrote, a step that raised a terminal condition leaves the machine
from before it, halted. -/
def commit (s : State) : Except Terminal State → Host.Outcome State Fault Refusal
  | .ok t => .next t
  | .error c => .next (s.raise c)

/-- `report MalformedOpcode` (R275): the part of it that is state. -/
def countMalformed (s : State) : State := { s with malformedCount := s.malformedCount + 1 }

/-! ## Oracle draws (R10) -/

/-- One oracle draw has been made: the next one is a fresh one. -/
def nextDraw (s : State) : State := { s with draws := s.draws + 1 }

/-- `draw_byte()` (R10, R163): a free value. -/
def drawnByte (s : State) : Byte := Config.freeByte s.draws

end State

/-- The key at a place of a non-empty list of keys, its last key for every place beyond the end: each key of the list is at
some place, and no other key is. -/
def pickKey : Key → List Key → Nat → Key
  | k, [], _ => k
  | k, k' :: ks, place => if place = 0 then k else pickKey k' ks (place - 1)

namespace State

/-- The held keys, rising (R37). -/
def heldKeys (s : State) : List Key := (List.finRange 16).filter (fun k => s.keys[k])

/-- `draw_key(S)` (R244) for the set made of `k` and `ks`: one of them, which one is a free value. -/
def drawnKey (s : State) (k : Key) (ks : List Key) : Key := pickKey k ks (Config.freeKeyPlace s.draws)

/-! ## Keypad, pause and timers as state -/

/-- `Keys` with key `k` held or not held. -/
def setKey (s : State) (k : Key) (held : Bool) : State := { s with keys := s.keys.set k held }

/-- "Key Vx is pressed" (R240): `V[x] ∈ Keys`; a value of 0x10 and above is never a pressed key. -/
def isPressed (s : State) (b : Byte) : Bool := if h : b.toNat < 16 then s.keys[b.toNat] else false

/-! ## The display -/

end State

/-- The place of a pixel in `Disp`: row-major, `yy*64 + xx` (R34). -/
def pixIndex (xx yy : Nat) : Nat := yy * 64 + xx

/-- `Pix(xx, yy)` (R13, R34). -/
def pix (d : BitVec 2048) (xx yy : Nat) : Bool := d.getLsbD (pixIndex xx yy)

/-- `Pix(xx, yy) <- Pix(xx, yy) ^ 1` (R222). -/
def flipPix (d : BitVec 2048) (xx yy : Nat) : BitVec 2048 := d ^^^ BitVec.twoPow 2048 (pixIndex xx yy)

/-- One bit of a sprite row (R222): bit `7 - c` of `b`, drawn at column `xs + c` and row `ys + r`, both wrapped. The pair is the
display and `hit`. -/
def drawBit (b : Byte) (xs ys r : Nat) (acc : BitVec 2048 × Bool) (c : Nat) : BitVec 2048 × Bool :=
  if b.getLsbD (7 - c) then
    (flipPix acc.1 ((xs + c) % 64) ((ys + r) % 32), acc.2 || pix acc.1 ((xs + c) % 64) ((ys + r) % 32))
  else acc

/-- One sprite row (R222): its eight bits, the most significant first. -/
def drawRow (b : Byte) (xs ys r : Nat) (acc : BitVec 2048 × Bool) : BitVec 2048 × Bool :=
  (List.range 8).foldl (drawBit b xs ys r) acc

namespace State

/-- The sprite of `n` rows at `I`, drawn with its top left corner at (`xs`, `ys`) (R222): the display afterwards, and `hit`. -/
def drawSprite (s : State) (xs ys n : Nat) : BitVec 2048 × Bool :=
  (List.range n).foldl (fun acc r => drawRow (s.readMem (s.index.toNat + r)) xs ys r acc) (s.disp, false)

/-- `Disp <- d`. -/
def setDisp (s : State) (d : BitVec 2048) : State := { s with disp := d }

/-! ## Fetch -/

/-- The machine takes effective steps (R96): not halted and not paused. -/
def active (s : State) : Bool := s.status == .running && !s.paused

/-- The fetch stage (R61, R91): nothing when `pc > 0xFFE`, else the two bytes at `pc`, the first of them the high one. -/
def fetch (s : State) : Option Word :=
  if s.pc.toNat > 0xFFE then none
  else some (wordOfBytes (s.readMem s.pc.toNat) (s.readMem (s.pc.toNat + 1)))

end State

end Sys2Proof.Machine
end

