-- ==== Sys2Proof/Machine/Operands.lean ====
section
/-! DEFINITION. Operand forms: the addressing mode of R62 and R190, the register block of R195 and R196, the shift source of
R159 and R161, and the immediates widened to 16 bits (R83). -/

namespace Sys2Proof.Machine

/-- `nnn` as a value of `pc` or `I` (R83): zero-extended. -/
def addrOf (nnn : Imm12) : Word := nnn.setWidth 16

/-- `zext_16` of a register value (R12). -/
def zext16 (b : Byte) : Word := b.setWidth 16

/-- The registers `V0 .. Vx`, rising (R195, R196). -/
def regsUpTo (x : Reg) : List Reg := (List.finRange 16).filter (fun r => decide (r ≤ x))

namespace State

/-- `I + k`, the exact sum whose residue modulo 4096 is the address of an access `k` bytes past `I` (R62, R197). -/
def indexed (s : State) (k : Nat) : Nat := s.index.toNat + k

/-- The source of a shift (R159, R161): `V[y]` when SHIFT_USES_VY, else `V[x]`. -/
def shiftSource (s : State) (x y : Reg) : Byte := if s.cfg.shiftUsesVy then s.readV y else s.readV x

/-- R195 and R196: `I <- trunc_16(I + x + 1)` when BLOCK_INCREMENTS_I, else `I` unchanged. -/
def blockIndex (s : State) (x : Reg) : State :=
  if s.cfg.blockIncrementsI then s.setIndex (BitVec.ofNat 16 (s.index.toNat + x.val + 1)) else s

/-- The block store of R195: `V[i]` to `I + i` for `i` in `0 .. x`, ascending. -/
def storeBlock (s : State) (x : Reg) : State :=
  (regsUpTo x).foldl (fun t r => t.writeMem (s.indexed r.val) (s.readV r)) s

/-- The block load of R196: `V[i]` from `I + i` for `i` in `0 .. x`, ascending. -/
def loadBlock (s : State) (x : Reg) : State :=
  (regsUpTo x).foldl (fun t r => t.writeV r (s.readMem (s.indexed r.val))) s

end State

end Sys2Proof.Machine
end

