-- ==== Sys2Proof/Machine/Flags.lean ====
section
/-! DEFINITION. Every flag computation: the value written to VF (R24, R162), from the operands read at the start (R150). -/

namespace Sys2Proof.Machine

/-- A flag as the byte VF holds: 1 or 0. -/
def flagByte (c : Bool) : Byte := if c then 1 else 0

/-- 8xy4 (R157): the carry out of bit 7, `a + b > 255`. -/
def carryFlag (a b : Byte) : Byte := flagByte (decide (a.toNat + b.toNat > 255))

/-- 8xy5 and 8xy7 (R158, R160): NOT borrow of `a - b`, `a >= b`. -/
def notBorrowFlag (a b : Byte) : Byte := flagByte (decide (a.toNat ≥ b.toNat))

/-- 8xy6 (R159): the dropped bit 0. -/
def droppedLowFlag (b : Byte) : Byte := flagByte (b.getLsbD 0)

/-- 8xyE (R161): the dropped bit 7. -/
def droppedHighFlag (b : Byte) : Byte := flagByte (b.getLsbD 7)

/-- Dxyn (R222): 1 if a set sprite bit landed on a lit pixel, else 0. -/
def collisionFlag (hit : Bool) : Byte := flagByte hit

end Sys2Proof.Machine
end

