-- ==== Sys2Proof/Machine/Alu.lean ====
section
/-! DEFINITION. The register and ALU family (R150-R163). Operands are read from the machine at `pc_fetch`, before any write
(R150). -/

namespace Sys2Proof.Machine

/-- `LD Vx, nn` (R151). -/
def execLdImm (x : Reg) (nn : Byte) (s : State) : Host.Outcome State Fault Refusal := .next (s.advance.writeV x nn)

/-- `ADD Vx, nn` (R152): wraps, no flag. -/
def execAddImm (x : Reg) (nn : Byte) (s : State) : Host.Outcome State Fault Refusal :=
  .next (s.advance.writeV x (BitVec.ofNat 8 ((s.readV x).toNat + nn.toNat)))

/-- `LD Vx, Vy` (R153). -/
def execLdReg (x y : Reg) (s : State) : Host.Outcome State Fault Refusal := .next (s.advance.writeV x (s.readV y))

/-- `OR Vx, Vy` (R154): VF is not written as a flag. -/
def execOrReg (x y : Reg) (s : State) : Host.Outcome State Fault Refusal :=
  .next (s.advance.writeV x (s.readV x ||| s.readV y))

/-- `AND Vx, Vy` (R155): VF is not written as a flag. -/
def execAndReg (x y : Reg) (s : State) : Host.Outcome State Fault Refusal :=
  .next (s.advance.writeV x (s.readV x &&& s.readV y))

/-- `XOR Vx, Vy` (R156): VF is not written as a flag. -/
def execXorReg (x y : Reg) (s : State) : Host.Outcome State Fault Refusal :=
  .next (s.advance.writeV x (s.readV x ^^^ s.readV y))

/-- `ADD Vx, Vy` (R157): carry into VF. -/
def execAddReg (x y : Reg) (s : State) : Host.Outcome State Fault Refusal :=
  .next (s.advance.writeDataThenFlag x (BitVec.ofNat 8 ((s.readV x).toNat + (s.readV y).toNat))
    (carryFlag (s.readV x) (s.readV y)))

/-- `SUB Vx, Vy` (R158): `(a - b) mod 256`, not-borrow into VF. -/
def execSub (x y : Reg) (s : State) : Host.Outcome State Fault Refusal :=
  .next (s.advance.writeDataThenFlag x (BitVec.ofInt 8 ((s.readV x).toNat - (s.readV y).toNat : Int))
    (notBorrowFlag (s.readV x) (s.readV y)))

/-- `SHR Vx, Vy` (R159): the dropped bit into VF. -/
def execShr (x y : Reg) (s : State) : Host.Outcome State Fault Refusal :=
  .next (s.advance.writeDataThenFlag x (s.shiftSource x y >>> 1) (droppedLowFlag (s.shiftSource x y)))

/-- `SUBN Vx, Vy` (R160): `(b - a) mod 256`, not-borrow into VF. -/
def execSubn (x y : Reg) (s : State) : Host.Outcome State Fault Refusal :=
  .next (s.advance.writeDataThenFlag x (BitVec.ofInt 8 ((s.readV y).toNat - (s.readV x).toNat : Int))
    (notBorrowFlag (s.readV y) (s.readV x)))

/-- `SHL Vx, Vy` (R161): the dropped bit 7 into VF. -/
def execShl (x y : Reg) (s : State) : Host.Outcome State Fault Refusal :=
  .next (s.advance.writeDataThenFlag x (s.shiftSource x y <<< 1) (droppedHighFlag (s.shiftSource x y)))

/-- `RND Vx, nn` (R163): a fresh oracle draw, masked by `nn`. -/
def execRnd (x : Reg) (nn : Byte) (s : State) : Host.Outcome State Fault Refusal :=
  .next (s.advance.nextDraw.writeV x (s.drawnByte &&& nn))

end Sys2Proof.Machine
end

