-- ==== Sys2Proof/Machine/Display.lean ====
section
/-! DEFINITION. The display family (R220-R223). -/

namespace Sys2Proof.Machine

/-- `CLS` (R221): every pixel 0; VF is not written. -/
def execCls (s : State) : Host.Outcome State Fault Refusal := .next (s.advance.setDisp 0)

/-- `DRW Vx, Vy, n` (R222): the coordinates are read before any write, VF is written once, after all pixels. -/
def execDrw (x y : Reg) (n : Fin 16) (s : State) : Host.Outcome State Fault Refusal :=
  .next ((s.advance.setDisp (s.drawSprite (s.readV x).toNat (s.readV y).toNat n.val).1).writeV flagReg
    (collisionFlag (s.drawSprite (s.readV x).toNat (s.readV y).toNat n.val).2))

end Sys2Proof.Machine
end

