-- ==== Sys2Proof/Machine/Flow.lean ====
section
/-! DEFINITION. The control flow family (R120-R130). A meaning is given the machine at `pc_fetch`. -/

namespace Sys2Proof.Machine

/-- `SYS nnn` (R120): no effect; the provisional pc stays. -/
def execSys (_nnn : Imm12) (s : State) : Host.Outcome State Fault Refusal := .next s.advance

/-- `RET` (R121): `pc <- Pop()`. -/
def execRet (s : State) : Host.Outcome State Fault Refusal :=
  s.commit (s.advance.pop.map fun p => p.2.setPc p.1)

/-- `JP nnn` (R122). -/
def execJp (nnn : Imm12) (s : State) : Host.Outcome State Fault Refusal := .next (s.advance.setPc (addrOf nnn))

/-- `CALL nnn` (R123): pushes the provisional pc. -/
def execCall (nnn : Imm12) (s : State) : Host.Outcome State Fault Refusal :=
  s.commit ((s.advance.push s.advance.pc).map fun t => t.setPc (addrOf nnn))

/-- `SE Vx, nn` (R124). -/
def execSeImm (x : Reg) (nn : Byte) (s : State) : Host.Outcome State Fault Refusal :=
  .next (s.advance.skipIf (s.readV x == nn))

/-- `SNE Vx, nn` (R125). -/
def execSneImm (x : Reg) (nn : Byte) (s : State) : Host.Outcome State Fault Refusal :=
  .next (s.advance.skipIf (s.readV x != nn))

/-- `SE Vx, Vy` (R126). -/
def execSeReg (x y : Reg) (s : State) : Host.Outcome State Fault Refusal :=
  .next (s.advance.skipIf (s.readV x == s.readV y))

/-- `SNE Vx, Vy` (R127). -/
def execSneReg (x y : Reg) (s : State) : Host.Outcome State Fault Refusal :=
  .next (s.advance.skipIf (s.readV x != s.readV y))

/-- `JP V0, nnn` (R128): no wrap, no mask. -/
def execJpV0 (nnn : Imm12) (s : State) : Host.Outcome State Fault Refusal :=
  .next (s.advance.setPc (addrOf nnn + zext16 (s.readV 0)))

end Sys2Proof.Machine
end

