-- ==== Sys2Proof/Machine/IndexMemory.lean ====
section
/-! DEFINITION. The index register and memory family (R190-R197). -/

namespace Sys2Proof.Machine

/-- `LD I, nnn` (R191). -/
def execLdI (nnn : Imm12) (s : State) : Host.Outcome State Fault Refusal := .next (s.advance.setIndex (addrOf nnn))

/-- `ADD I, Vx` (R192): wraps at 16 bits, no flag. -/
def execAddI (x : Reg) (s : State) : Host.Outcome State Fault Refusal :=
  .next (s.advance.setIndex (BitVec.ofNat 16 (s.index.toNat + (s.readV x).toNat)))

/-- `LD F, Vx` (R193): `I <- V[x] * 5`, no masking of `V[x]`. -/
def execLdF (x : Reg) (s : State) : Host.Outcome State Fault Refusal :=
  .next (s.advance.setIndex (BitVec.ofNat 16 ((s.readV x).toNat * 5)))

/-- The hundreds digit of a byte (R194). -/
def hundreds (b : Byte) : Byte := BitVec.ofNat 8 (b.toNat / 100)

/-- The tens digit of a byte (R194). -/
def tens (b : Byte) : Byte := BitVec.ofNat 8 (b.toNat / 10 % 10)

/-- The ones digit of a byte (R194). -/
def ones (b : Byte) : Byte := BitVec.ofNat 8 (b.toNat % 10)

/-- `LD B, Vx` (R194): hundreds, tens and ones at `I`, `I + 1`, `I + 2`. -/
def execLdB (x : Reg) (s : State) : Host.Outcome State Fault Refusal :=
  .next (((s.advance.writeMem (s.indexed 0) (hundreds (s.readV x))).writeMem (s.indexed 1) (tens (s.readV x))).writeMem
    (s.indexed 2) (ones (s.readV x)))

/-- `LD [I], Vx` (R195). -/
def execStoreRegs (x : Reg) (s : State) : Host.Outcome State Fault Refusal :=
  .next ((s.advance.storeBlock x).blockIndex x)

/-- `LD Vx, [I]` (R196). -/
def execLoadRegs (x : Reg) (s : State) : Host.Outcome State Fault Refusal :=
  .next ((s.advance.loadBlock x).blockIndex x)

end Sys2Proof.Machine
end

