-- ==== Sys2Proof/Machine/KeypadTimers.lean ====
section
/-! DEFINITION. The keypad and timer instructions (R240-R247). -/

namespace Sys2Proof.Machine

/-- `SKP Vx` (R241): consumes nothing. -/
def execSkp (x : Reg) (s : State) : Host.Outcome State Fault Refusal :=
  .next (s.advance.skipIf (s.isPressed (s.readV x)))

/-- `SKNP Vx` (R242). -/
def execSknp (x : Reg) (s : State) : Host.Outcome State Fault Refusal :=
  .next (s.advance.skipIf (!s.isPressed (s.readV x)))

/-- The key `k` is what Fx0A takes (R243): stored in `V[x]`, and removed from `Keys` when FX0A_REMOVES_KEY. -/
def takeKey (x : Reg) (k : Key) (s : State) : State :=
  if s.cfg.fx0aRemovesKey then (s.writeV x (BitVec.ofNat 8 k.val)).setKey k false else s.writeV x (BitVec.ofNat 8 k.val)

/-- `LD Vx, K` (R243): with no key held, `pc <- pc_fetch` and nothing else changes; else one held key, an oracle draw. -/
def execLdVxK (x : Reg) (s : State) : Host.Outcome State Fault Refusal :=
  match s.heldKeys with
  | [] => .next (s.advance.setPc s.pc)
  | k :: ks => .next (takeKey x (s.drawnKey k ks) s.advance.nextDraw)

/-- `LD Vx, DT` (R245). -/
def execLdVxDt (x : Reg) (s : State) : Host.Outcome State Fault Refusal := .next (s.advance.writeV x s.dt)

/-- `LD DT, Vx` (R246). -/
def execLdDtVx (x : Reg) (s : State) : Host.Outcome State Fault Refusal := .next (s.advance.setDt (s.readV x))

/-- `LD ST, Vx` (R247). -/
def execLdStVx (x : Reg) (s : State) : Host.Outcome State Fault Refusal := .next (s.advance.setSt (s.readV x))

end Sys2Proof.Machine
end

