-- ==== Sys2Proof/Machine/Reserved.lean ====
section
/-! DEFINITION. The two reserved classes of words (R88, R89), which no row of R86 and no constructor of Instr stands for, and
the fetch that finds no instruction (R91). -/

namespace Sys2Proof.Machine

/-- UNRECOGNIZED (R88): writes nothing but the provisional pc and reports nothing. -/
def execUnrecognized (s : State) : Host.Outcome State Fault Refusal := .next s.advance

/-- MALFORMED (R89, R275): the provisional pc, and the report is counted. -/
def execMalformed (s : State) : Host.Outcome State Fault Refusal := .next s.advance.countMalformed

/-- Overrun at fetch (R91, R274): terminal, nothing is fetched. -/
def execOverrun (s : State) : Host.Outcome State Fault Refusal := s.commit (.error .overrun)

/-- A step on a halted or paused machine (R96): nothing changes. -/
def execInactive (s : State) : Host.Outcome State Fault Refusal := .next s

end Sys2Proof.Machine
end

