-- ==== Sys2Proof/Machine/Step.lean ====
section
/-! DEFINITION. One step: fetch, decode, dispatch (R90-R96). -/

namespace Sys2Proof.Machine

/-- What a decoded word does (R94): exactly one of an instruction rule, R88 and R89. -/
def execDecoded (d : Decoded) (s : State) : Host.Outcome State Fault Refusal :=
  match d with
  | .instr i => exec i s
  | .unrecognized _ => execUnrecognized s
  | .malformed _ => execMalformed s

/-- `step(m)` (R90), its machine. What it returns to the host beside the machine is `stepReport`. -/
def step (s : State) : Host.Outcome State Fault Refusal :=
  if s.active then
    match s.fetch with
    | none => execOverrun s
    | some w => execDecoded (decode w) s
  else execInactive s

/-- The address at which `withFetchWord` stores: where the machine fetches, and the entry point (R314) where it could not. -/
def State.fetchPlace (s : State) : Word := if s.pc.toNat > 0xFFE then 0x200 else s.pc

/-- The machine with a table word stored where the next step fetches it (log entry 2). A fetch needs a running, unpaused machine
with `pc ≤ 0xFFE`; on a machine that is so, only the two bytes of memory change. -/
def State.withFetchWord (s : State) (nbits w : Nat) : State :=
  { (s.writeMem s.fetchPlace.toNat (highByte (tableWord nbits w))).writeMem (s.fetchPlace.toNat + 1)
      (lowByte (tableWord nbits w)) with
    pc := s.fetchPlace, status := .running, paused := false }

end Sys2Proof.Machine
end

