-- ==== Sys2Proof/Machine/Interface.lean ====
section
/-! DEFINITION. The rest of the block's interface (R290): what a step reports, the timer countdown engine, the keypad latch, the
pause toggle, loading, the ROM switch, the tick, the snapshots, and the agents' operations as events (R297). -/

namespace Sys2Proof.Machine

/-! ## What a step returns (R90, R270) -/

/-- The machine an outcome leaves. -/
def outcomeState (s : State) : Host.Outcome State Fault Refusal → State
  | .next t => t
  | _ => s

/-- The machine after one step. -/
def stepState (s : State) : State := outcomeState s (step s)

/-- The report of a step from `s` that left status `st` (R272): the condition it halted with, and `pc_fetch`. -/
def terminalReport (s : State) (st : Status) : Report :=
  match st with
  | .running => .ok
  | .halted c => .fault c s.pc

/-- The report of a step of an active machine, from the word it fetched (R270, R275). -/
def fetchedReport (s : State) (w : Option Word) : Report :=
  match w.map decode with
  | some (.malformed w) => .malformed w s.pc
  | _ => terminalReport s (stepState s).status

/-- What `step(m)` returns beside the machine (R90, R96, R270). -/
def stepReport (s : State) : Report := if s.active then fetchedReport s s.fetch else .ok

/-- The numeric code of a terminal condition (R270). -/
def Terminal.code : Terminal → Nat
  | .overrun => 2
  | .stackOverflow => 3
  | .stackUnderflow => 4

/-- The numeric code of a report (R270). -/
def Report.code : Report → Nat
  | .ok => 0
  | .malformed _ _ => 1
  | .fault c _ => c.code
  | .romTooLarge _ => 16
  | .romNotFound => 17

/-- The report is a `Fault` (R272, R317). -/
def Report.isFault : Report → Bool
  | .fault _ _ => true
  | _ => false

/-! ## The timer countdown engine (R284) -/

/-- One count down, clamping at 0 (R284). -/
def countDown (b : Byte) : Byte := BitVec.ofNat 8 (b.toNat - 1)

/-- `decrement_timers` (R284): nothing on a halted machine; it runs on a paused one. -/
def decrementTimers (s : State) : State :=
  if s.status = .running then (s.setDt (countDown s.dt)).setSt (countDown s.st) else s

/-! ## The keypad latch and the pause toggle (R286, R287, R294) -/

/-- A key code given from outside: any integer; codes outside 0-15 are ignored (R286). -/
def keyOfCode (code : Int) : Option Key := if h : 0 ≤ code ∧ code < 16 then some ⟨code.toNat, by omega⟩ else none

/-- `press(code)` (R286). -/
def press (code : Int) (s : State) : State :=
  match keyOfCode code with
  | some k => s.setKey k true
  | none => s

/-- `release(code)` (R287). -/
def release (code : Int) (s : State) : State :=
  match keyOfCode code with
  | some k => s.setKey k false
  | none => s

/-- `toggle_pause()` (R294). -/
def togglePause (s : State) : State := { s with paused := !s.paused }

/-! ## Loading and the ROM switch (R311-R313, R315) -/

/-- The bytes of a ROM written from an address upward (R311). -/
def storeBytes (s : State) (addr : Nat) : List Byte → State
  | [] => s
  | b :: bs => storeBytes (s.writeMem addr b) (addr + 1) bs

/-- `load_rom(m, bytes)` (R311-R313): `none` is a ROM source that is unavailable. -/
def loadRom (rom : Option (List Byte)) (s : State) : State × Report :=
  match rom with
  | none => (s, .romNotFound)
  | some bytes => if bytes.length > romMax then (s, .romTooLarge bytes.length) else (storeBytes s romBase bytes, .ok)

/-- The machine a ROM switch starts from: `new_machine()` (R310) at the parameters of `s`, the oracle going on (R21). -/
def freshMachine (s : State) : State := newMachine s.cfg s.draws

/-- `rom_switch(bytes)` (R315): a load that fails keeps the current machine. -/
def romSwitch (rom : Option (List Byte)) (s : State) : State × Report :=
  match loadRom rom (freshMachine s) with
  | (t, .ok) => (t, .ok)
  | (_, r) => (s, r)

/-! ## Events: the operations of the agents (R290, R297), in one total order (R69) -/

/-- One atomic operation of an agent. -/
inductive Event where
  /-- The driver: `step` (R291). -/
  | step
  /-- The driver: `decrement_timers` (R284). -/
  | decrementTimers
  /-- The input collaborator: `press` (R286). -/
  | press (code : Int)
  /-- The input collaborator: `release` (R287). -/
  | release (code : Int)
  /-- The controller: `toggle_pause` (R294). -/
  | togglePause
  /-- The controller: `load_rom` (R311). -/
  | loadRom (rom : Option (List Byte))
  /-- The controller: `rom_switch` (R315). -/
  | romSwitch (rom : Option (List Byte))
deriving DecidableEq, Repr

/-- What an operation leaves and what it returns. -/
def applyEvent (e : Event) (s : State) : State × Report :=
  match e with
  | .step => (stepState s, stepReport s)
  | .decrementTimers => (decrementTimers s, .ok)
  | .press code => (press code s, .ok)
  | .release code => (release code s, .ok)
  | .togglePause => (togglePause s, .ok)
  | .loadRom rom => loadRom rom s
  | .romSwitch rom => romSwitch rom s

/-- The machine after a sequence of operations, in their order. -/
def runEvents (es : List Event) (s : State) : State := es.foldl (fun t e => (applyEvent e t).1) s

/-! ## The tick (R317-R319) -/

/-- The step batch of a tick (R317) with `k` steps left. A tick is not atomic: the head of `between` is what the other agents do
before the next operation of the driver. It answers the machine, the reports of the steps, and, unless a step faulted, what the
other agents do before the decrement. -/
def tickSteps : Nat → List (List Event) → State → State × List Report × Option (List Event)
  | 0, between, s => (s, [], some (between.headD []))
  | k + 1, between, s =>
    let s1 := runEvents (between.headD []) s
    if (stepReport s1).isFault then (stepState s1, [stepReport s1], none)
    else
      let r := tickSteps k between.tail (stepState s1)
      (r.1, stepReport s1 :: r.2.1, r.2.2)

/-- The end of a tick (R317, R318): the decrement, unless the machine is paused by then. -/
def tickEnd (s : State) : State := if s.paused then s else decrementTimers s

/-- `tick(m)` (R317) with the other agents' operations in between. -/
def tickWith (between : List (List Event)) (s : State) : State × List Report :=
  if s.active then
    match tickSteps s.cfg.stepsPerTick between s with
    | (t, rs, none) => (t, rs)
    | (t, rs, some es) => (tickEnd (runEvents es t), rs)
  else (s, [])

/-- `tick(m)` (R317) with nothing in between. -/
def tick (s : State) : State × List Report := tickWith [] s

/-! ## Snapshots (R288, R289, R296) -/

/-- The framebuffer export (R288): 2048 values, row-major. -/
def framebuffer (s : State) : List Bool := (List.range 2048).map fun j => s.disp.getLsbD j

/-- What the renderer and the host read (R288, R289, R296). -/
structure Snapshot where
  /-- `Disp` (R288). -/
  pixels : List Bool
  /-- `ST` (R289). -/
  soundTimer : Byte
  /-- `DT` (R289). -/
  delayTimer : Byte
  /-- `status` (R296). -/
  status : Status
  /-- `malformed_count` (R296). -/
  malformedCount : Nat
deriving DecidableEq, Repr

/-- The snapshot of a machine (R296): it reads state and changes none. -/
def snapshot (s : State) : Snapshot := ⟨framebuffer s, s.st, s.dt, s.status, s.malformedCount⟩

end Sys2Proof.Machine
end

