-- ==== Sys2Proof/Safety.lean ====
section
/-! DEFINITION. What claims are stated in: the legal machines (R39), the sprite's pixels (R222), and the frames. -/

namespace Sys2Proof.Machine

/-- Every way `pc` can be past 0xFFE keeps it at or below 0x10FE (R128, R274). -/
def pcMax : Nat := 0x10FE

/-- The largest return address a call pushes (R121, R123). -/
def returnMax : Nat := 0x1000

/-- A legal machine: memory in canonical form, `stack` within its bound (R30, R39), no return address above 0x1000 (R121), and
`pc` no further than an instruction can leave it (R128, R274). -/
structure State.Inv (s : State) : Prop where
  /-- Memory keeps its canonical form. -/
  memWf : Mem.wf s.cfg s.mem
  /-- R30: "The stack never holds more than STACK_DEPTH entries". -/
  stackBound : s.stack.length ≤ s.cfg.stackDepth
  /-- R121: a popped value "is at most 0x1000". -/
  returnBound : ∀ a ∈ s.stack, a.toNat ≤ returnMax
  /-- R128: "0 .. 0x10FE". -/
  pcBound : s.pc.toNat ≤ pcMax

/-- The run of the machine is safe so far: no terminal condition was raised (R272). -/
abbrev State.Safe (s : State) : Prop := s.status = .running

/-- The sprite of `n` rows at `I` has a set bit `c` (0 leftmost) in row `r` (R222). -/
def State.spriteBit (s : State) (r c : Nat) : Bool := (s.readMem (s.index.toNat + r)).getLsbD (7 - c)

/-- A set bit of the sprite lands on pixel (`xx`, `yy`) when it is drawn at (`xs`, `ys`) (R222). -/
def State.SpriteCovers (s : State) (xs ys n xx yy : Nat) : Prop :=
  ∃ r < n, ∃ c < 8, s.spriteBit r c = true ∧ xx = (xs + c) % 64 ∧ yy = (ys + r) % 32

/-- The number of lit pixels (R223). -/
def litPixels (d : BitVec 2048) : Nat := (List.range 2048).countP fun j => d.getLsbD j

/-- The (row, bit) pairs of a sprite of `n` rows. -/
def spritePlaces (n : Nat) : List (Nat × Nat) := (List.range n).flatMap fun r => (List.range 8).map fun c => (r, c)

/-- The set bits of a sprite (R223). -/
def State.spriteBits (s : State) (n : Nat) : Nat := (spritePlaces n).countP fun p => s.spriteBit p.1 p.2

/-- The set bits of a sprite drawn at (`xs`, `ys`) that land on a lit pixel (R223). -/
def State.spriteHits (s : State) (xs ys n : Nat) : Nat :=
  (spritePlaces n).countP fun p => s.spriteBit p.1 p.2 && pix s.disp ((xs + p.2) % 64) ((ys + p.1) % 32)

end Sys2Proof.Machine
end

