-- ==== Sys2Proof/Certificates/Slice0/Obligations.lean ====
section
/-! DEFINITION. The statements for the provers. Each docstring names the rules of spec/ it formalises. A record update on the
right says what the fields it names become and that every other field is unchanged (the frame). A statement that rests on a
decision of the spec (92_eei_decisions.md) or on a choice of the model names it. -/

open Sys2Proof Sys2Proof.Machine

/-! ## Encoding -/

/-- R86, R87, R99: decoding the word of a well-formed instruction gives the instruction back, every operand at every value. -/
def Obligations.EncodeThenDecode : Prop := ∀ i : Instr, i.wellFormed = true → decode (encode i) = .instr i

/-- R87, R99, R100: a word that decodes to an instruction is the word of that instruction, which is well-formed. -/
def Obligations.DecodeThenEncode : Prop := ∀ w i, decode w = .instr i → i.wellFormed = true ∧ encode i = w

/-- R86, R87: a word decodes to an instruction of a row exactly when `(w & mask) = match`, SYS only after 00E0 and 00EE. Rests
on the spec's decision D34 (log entry 17). -/
def Obligations.DispatchTableIsExact : Prop := ∀ (w : Word) (j : Instr),
  (∃ i, decode w = .instr i ∧ i.row = j.row) ↔
    (w &&& j.row.mask = j.row.pat ∧ (j.row = ⟨0x0000, 0xF000⟩ → w ≠ 0x00E0 ∧ w ≠ 0x00EE))

/-- R88, R89, R100: which words are malformed and which are unrecognized, and that every other word is an instruction. Rests
on the spec's decision D10 (log entry 17). -/
def Obligations.ReservedWordsClassified : Prop := ∀ w : Word,
  (decode w = .malformed w ↔ fieldOp w = 5 ∧ fieldN w ≠ 0) ∧
  (decode w = .unrecognized w ↔
    (fieldOp w = 8 ∧ fieldN w ∈ [8, 9, 0xA, 0xB, 0xC, 0xD, 0xF]) ∨ (fieldOp w = 9 ∧ fieldN w ≠ 0) ∨
    (fieldOp w = 0xE ∧ fieldNN w ∉ [0x9E#8, 0xA1#8]) ∨
    (fieldOp w = 0xF ∧ fieldNN w ∉ [0x07#8, 0x0A#8, 0x15#8, 0x18#8, 0x1E#8, 0x29#8, 0x33#8, 0x55#8, 0x65#8])) ∧
  ((∃ i, decode w = .instr i) ∨ decode w = .unrecognized w ∨ decode w = .malformed w)

/-- R86: words written out from the spec decode to the instructions they stand for (a sanity statement). -/
def Obligations.WrittenOutWordsDecode : Prop :=
  decode 0x00E0 = .instr .cls ∧ decode 0x1ABC = .instr (.jp 0xABC) ∧ decode 0x8354 = .instr (.addReg 3 5) ∧
  decode 0xA2F0 = .instr (.ldI 0x2F0) ∧ decode 0xD015 = .instr (.drw 0 1 5) ∧ decode 0xE19E = .instr (.skp 1) ∧
  decode 0xF265 = .instr (.loadRegs 2)

/-! ## The step -/

/-- R61, R90, R94: a step of a running, unpaused machine is exec of the instruction that the two bytes at `pc` decode to. exec is
given the machine at `pc_fetch`; the step adds nothing around it. -/
def Obligations.StepRunsDecodedInstruction : Prop := ∀ (s : State) (i : Instr),
  s.status = .running → s.paused = false → s.pc.toNat ≤ 0xFFE →
  decode (s.readMem s.pc.toNat ++ s.readMem (s.pc.toNat + 1)) = .instr i → step s = exec i s

/-- R96: a step of a halted or paused machine changes nothing and returns Ok. Rests on the spec's decisions D20, D23 (log
entry 17). -/
def Obligations.InactiveStepChangesNothing : Prop := ∀ s : State,
  (s.status ≠ .running ∨ s.paused = true) → step s = .next s ∧ stepReport s = .ok

/-- R91: a fetch with `pc > 0xFFE` raises Overrun and fetches nothing; a step that does fetch never raises it. Rests on the
spec's decision D6 (log entry 17). -/
def Obligations.OverrunOnlyAtFetch : Prop := ∀ s : State, s.status = .running → s.paused = false →
  (s.pc.toNat > 0xFFE →
    step s = .next { s with status := .halted .overrun } ∧ stepReport s = .fault .overrun s.pc) ∧
  (s.pc.toNat ≤ 0xFFE → ∀ t, step s = .next t → t.status ≠ .halted .overrun)

/-- R291: a step always returns. -/
def Obligations.StepAlwaysReturns : Prop := ∀ s : State, ∃ t, step s = .next t

/-- R95, R272: a step that raises a terminal condition discards every write and sets the halt latch; it reports the condition
with `pc_fetch`. Rests on the spec's decisions D8, D20 (log entry 17). -/
def Obligations.TerminalConditionIsPrecise : Prop := ∀ (s t : State) (c : Terminal),
  s.status = .running → step s = .next t → t.status = .halted c →
    t = { s with status := .halted c } ∧ stepReport s = .fault c s.pc

/-- R270, R271, R276, R277: what a step of a running, unpaused machine reports, and exactly when. Rests on the spec's
decisions D6, D8 (log entry 17). -/
def Obligations.StepReportsExactlyTheseConditions : Prop := ∀ s : State, s.status = .running → s.paused = false →
  (∀ p, stepReport s = .fault .overrun p ↔ p = s.pc ∧ s.pc.toNat > 0xFFE) ∧
  (∀ p, stepReport s = .fault .stackOverflow p ↔
    p = s.pc ∧ s.stack.length = s.cfg.stackDepth ∧ ∃ w nnn, s.fetch = some w ∧ decode w = .instr (.call nnn)) ∧
  (∀ p, stepReport s = .fault .stackUnderflow p ↔
    p = s.pc ∧ s.stack = [] ∧ ∃ w, s.fetch = some w ∧ decode w = .instr .ret) ∧
  (∀ w p, stepReport s = .malformed w p ↔ p = s.pc ∧ s.fetch = some w ∧ decode w = .malformed w) ∧
  (∀ n, stepReport s ≠ .romTooLarge n) ∧ stepReport s ≠ .romNotFound

/-- R88: an unrecognized word is a silent no-op that advances `pc` by 2. Rests on the spec's decision D10 (log entry 17). -/
def Obligations.UnrecognizedWordIsSilentNoOp : Prop := ∀ (s : State) (w : Word),
  s.status = .running → s.paused = false → s.fetch = some w →
  ((fieldOp w = 8 ∧ fieldN w ∈ [8, 9, 0xA, 0xB, 0xC, 0xD, 0xF]) ∨ (fieldOp w = 9 ∧ fieldN w ≠ 0) ∨
    (fieldOp w = 0xE ∧ fieldNN w ∉ [0x9E#8, 0xA1#8]) ∨
    (fieldOp w = 0xF ∧ fieldNN w ∉ [0x07#8, 0x0A#8, 0x15#8, 0x18#8, 0x1E#8, 0x29#8, 0x33#8, 0x55#8, 0x65#8])) →
  step s = .next { s with pc := s.pc + 2 } ∧ stepReport s = .ok

/-- R89, R275: `5xyN` with N ≠ 0 is a no-op that is reported and counted; it does not skip and is not terminal. That the count
is state is R36's own element. Rests on the spec's decision D9 (log entry 17). -/
def Obligations.MalformedWordIsCountedNoOp : Prop := ∀ (s : State) (w : Word),
  s.status = .running → s.paused = false → s.fetch = some w → fieldOp w = 5 → fieldN w ≠ 0 →
  step s = .next { s with pc := s.pc + 2, malformedCount := s.malformedCount + 1 } ∧ stepReport s = .malformed w s.pc

/-! ## Invariants -/

/-- R30, R39, R121, R128: every step keeps a legal machine legal. -/
def Obligations.StepKeepsLegalMachine : Prop := ∀ s t : State, s.Inv → step s = .next t → t.Inv

/-- R310: the machine after reset is legal. -/
def Obligations.ResetIsLegal : Prop := State.reset.Inv

/-- R30, R297: whatever the agents do, in whatever order, a legal machine stays legal and its parameters (R9) stay fixed. -/
def Obligations.EveryRunKeepsLegalMachine : Prop := ∀ (es : List Event) (s : State),
  s.Inv → (runEvents es s).Inv ∧ (runEvents es s).cfg = s.cfg

/-- R273: a halted machine takes no effect but key events, the pause toggle and loading, and only a ROM switch that succeeds
ends it. Rests on the spec's decision D20 (log entry 17). -/
def Obligations.HaltedMachineStaysHalted : Prop := ∀ (s : State) (c : Terminal), s.status = .halted c →
  applyEvent .step s = (s, .ok) ∧ applyEvent .decrementTimers s = (s, .ok) ∧ tick s = (s, []) ∧
  (∀ code, (applyEvent (.press code) s).1 = { s with keys := (applyEvent (.press code) s).1.keys } ∧
    (∀ k : Key, code = k.val → (applyEvent (.press code) s).1.keys[k] = true)) ∧
  (∀ code, (applyEvent (.release code) s).1 = { s with keys := (applyEvent (.release code) s).1.keys } ∧
    (∀ k : Key, code = k.val → (applyEvent (.release code) s).1.keys[k] = false)) ∧
  (applyEvent .togglePause s).1 = { s with paused := !s.paused } ∧
  (∀ e, (applyEvent e s).1.status ≠ .halted c →
    ∃ rom, e = .romSwitch (some rom) ∧ rom.length ≤ 3584 ∧ (applyEvent e s).1.status = .running)

/-! ## Control flow -/

/-- R120: SYS. Rests on the spec's decisions D11, D34 (log entry 17). -/
def Obligations.SysIsNoOp : Prop :=
  (∀ w : Word, w &&& 0xF000 = 0x0000 → w ≠ 0x00E0 → w ≠ 0x00EE → decode w = .instr (.sys (fieldNNN w))) ∧
  ∀ nnn (s : State), exec (.sys nnn) s = .next { s with pc := s.pc + 2 }

/-- R121, R277: RET pops the last entry into `pc`, and an empty stack is a terminal condition. Rests on the spec's decision D8
(log entry 17). -/
def Obligations.ReturnPopsOrUnderflows : Prop := decode 0x00EE = .instr .ret ∧ ∀ s : State,
  (∀ l a, s.stack = l ++ [a] → exec .ret s = .next { s with pc := a, stack := l }) ∧
  (s.stack = [] → exec .ret s = .next { s with status := .halted .stackUnderflow })

/-- R122: JP. -/
def Obligations.JumpSetsPc : Prop :=
  (∀ w : Word, w &&& 0xF000 = 0x1000 → decode w = .instr (.jp (fieldNNN w))) ∧
  ∀ nnn (s : State), ∃ t, exec (.jp nnn) s = .next t ∧ t.pc.toNat = nnn.toNat ∧ t = { s with pc := t.pc }

/-- R123, R276: CALL pushes `pc_fetch + 2` and jumps, and a full stack is a terminal condition. Rests on the spec's decision
D8 (log entry 17). -/
def Obligations.CallPushesOrOverflows : Prop :=
  (∀ w : Word, w &&& 0xF000 = 0x2000 → decode w = .instr (.call (fieldNNN w))) ∧
  ∀ nnn (s : State),
    (s.stack.length ≠ s.cfg.stackDepth → ∃ t, exec (.call nnn) s = .next t ∧ t.pc.toNat = nnn.toNat ∧
      t = { s with pc := t.pc, stack := s.stack ++ [s.pc + 2] }) ∧
    (s.stack.length = s.cfg.stackDepth → exec (.call nnn) s = .next { s with status := .halted .stackOverflow })

/-- R31, R121, R123: a return, wherever it stands, takes back what the call before it pushed. -/
def Obligations.ReturnUndoesCall : Prop := ∀ nnn p (s t u : State), s.stack.length ≠ s.cfg.stackDepth →
  exec (.call nnn) s = .next t → exec .ret { t with pc := p } = .next u → u = { s with pc := s.pc + 2 }

/-- R124, R125: the skips that compare with an immediate. -/
def Obligations.SkipsOnImmediate : Prop :=
  (∀ w : Word, w &&& 0xF000 = 0x3000 → decode w = .instr (.seImm (fieldX w) (fieldNN w))) ∧
  (∀ w : Word, w &&& 0xF000 = 0x4000 → decode w = .instr (.sneImm (fieldX w) (fieldNN w))) ∧
  ∀ x nn (s : State),
    exec (.seImm x nn) s = .next { s with pc := if s.v[x] = nn then s.pc + 4 else s.pc + 2 } ∧
    exec (.sneImm x nn) s = .next { s with pc := if s.v[x] = nn then s.pc + 2 else s.pc + 4 }

/-- R126, R127: the skips that compare two registers, and the words beside them that are no skips. Rests on the spec's
decisions D9, D10 (log entry 17). -/
def Obligations.SkipsOnRegister : Prop :=
  (∀ w : Word, w &&& 0xF00F = 0x5000 → decode w = .instr (.seReg (fieldX w) (fieldY w))) ∧
  (∀ w : Word, fieldOp w = 5 → fieldN w ≠ 0 → decode w = .malformed w) ∧
  (∀ w : Word, w &&& 0xF00F = 0x9000 → decode w = .instr (.sneReg (fieldX w) (fieldY w))) ∧
  (∀ w : Word, fieldOp w = 9 → fieldN w ≠ 0 → decode w = .unrecognized w) ∧
  ∀ x y (s : State),
    exec (.seReg x y) s = .next { s with pc := if s.v[x] = s.v[y] then s.pc + 4 else s.pc + 2 } ∧
    exec (.sneReg x y) s = .next { s with pc := if s.v[x] = s.v[y] then s.pc + 2 else s.pc + 4 }

/-- R128: JP V0 adds without wrap or mask. Rests on the spec's decision D16 (log entry 17). -/
def Obligations.ComputedJumpAddsV0 : Prop :=
  (∀ w : Word, w &&& 0xF000 = 0xB000 → decode w = .instr (.jpV0 (fieldNNN w))) ∧
  ∀ nnn (s : State), ∃ t, exec (.jpV0 nnn) s = .next t ∧ t.pc.toNat = nnn.toNat + s.v[0].toNat ∧ t = { s with pc := t.pc }

/-! ## Register and ALU -/

/-- R151, R152: load and add immediate; neither writes a flag. -/
def Obligations.ImmediateLoadAndAdd : Prop :=
  (∀ w : Word, w &&& 0xF000 = 0x6000 → decode w = .instr (.ldImm (fieldX w) (fieldNN w))) ∧
  (∀ w : Word, w &&& 0xF000 = 0x7000 → decode w = .instr (.addImm (fieldX w) (fieldNN w))) ∧
  ∀ x nn (s : State),
    exec (.ldImm x nn) s = .next { s with pc := s.pc + 2, v := s.v.set x nn } ∧
    ∃ t, exec (.addImm x nn) s = .next t ∧ t.v[x].toNat = (s.v[x].toNat + nn.toNat) % 256 ∧
      (∀ r : Reg, r ≠ x → t.v[r] = s.v[r]) ∧ t = { s with pc := s.pc + 2, v := t.v }

/-- R153-R156: assign, OR, AND, XOR; VF is not written unless it is the destination. That VF is otherwise left alone rests on
the spec's decision D18 (log entry 17). -/
def Obligations.AssignAndLogic : Prop :=
  (∀ w : Word, w &&& 0xF00F = 0x8000 → decode w = .instr (.ldReg (fieldX w) (fieldY w))) ∧
  (∀ w : Word, w &&& 0xF00F = 0x8001 → decode w = .instr (.orReg (fieldX w) (fieldY w))) ∧
  (∀ w : Word, w &&& 0xF00F = 0x8002 → decode w = .instr (.andReg (fieldX w) (fieldY w))) ∧
  (∀ w : Word, w &&& 0xF00F = 0x8003 → decode w = .instr (.xorReg (fieldX w) (fieldY w))) ∧
  ∀ x y (s : State),
    exec (.ldReg x y) s = .next { s with pc := s.pc + 2, v := s.v.set x s.v[y] } ∧
    exec (.orReg x y) s = .next { s with pc := s.pc + 2, v := s.v.set x (s.v[x] ||| s.v[y]) } ∧
    exec (.andReg x y) s = .next { s with pc := s.pc + 2, v := s.v.set x (s.v[x] &&& s.v[y]) } ∧
    exec (.xorReg x y) s = .next { s with pc := s.pc + 2, v := s.v.set x (s.v[x] ^^^ s.v[y]) }

/-- R157: the sum modulo 256, then the carry into VF. That the flag is written last when `x = F` (R25) rests on the spec's
decision D18 (log entry 17). -/
def Obligations.AddWithCarry : Prop :=
  (∀ w : Word, w &&& 0xF00F = 0x8004 → decode w = .instr (.addReg (fieldX w) (fieldY w))) ∧
  ∀ x y (s : State), ∃ t, exec (.addReg x y) s = .next t ∧
    t.v[15] = (if s.v[x].toNat + s.v[y].toNat > 255 then 1 else 0) ∧
    (x ≠ 15 → t.v[x].toNat = (s.v[x].toNat + s.v[y].toNat) % 256) ∧
    (∀ r : Reg, r ≠ x → r ≠ 15 → t.v[r] = s.v[r]) ∧ t = { s with pc := s.pc + 2, v := t.v }

/-- R158, R160: the difference modulo 256, then not-borrow into VF (1 for equal operands, and written last when
`x = F`, R25). Rests on the spec's decisions D3, D18 (log entry 17). -/
def Obligations.SubtractWithNotBorrow : Prop :=
  (∀ w : Word, w &&& 0xF00F = 0x8005 → decode w = .instr (.sub (fieldX w) (fieldY w))) ∧
  (∀ w : Word, w &&& 0xF00F = 0x8007 → decode w = .instr (.subn (fieldX w) (fieldY w))) ∧
  ∀ x y (s : State),
    (∃ t, exec (.sub x y) s = .next t ∧ t.v[15] = (if s.v[x].toNat ≥ s.v[y].toNat then 1 else 0) ∧
      (x ≠ 15 → (t.v[x].toNat : Int) = ((s.v[x].toNat : Int) - s.v[y].toNat) % 256) ∧
      (∀ r : Reg, r ≠ x → r ≠ 15 → t.v[r] = s.v[r]) ∧ t = { s with pc := s.pc + 2, v := t.v }) ∧
    (∃ t, exec (.subn x y) s = .next t ∧ t.v[15] = (if s.v[y].toNat ≥ s.v[x].toNat then 1 else 0) ∧
      (x ≠ 15 → (t.v[x].toNat : Int) = ((s.v[y].toNat : Int) - s.v[x].toNat) % 256) ∧
      (∀ r : Reg, r ≠ x → r ≠ 15 → t.v[r] = s.v[r]) ∧ t = { s with pc := s.pc + 2, v := t.v })

/-- R159, R161: the shifts by one, for both values of SHIFT_USES_VY, then the dropped bit into VF (written last when
`x = F`, R25). Rests on the spec's decisions D2, D18 (log entry 17). -/
def Obligations.ShiftWithDroppedBit : Prop :=
  (∀ w : Word, w &&& 0xF00F = 0x8006 → decode w = .instr (.shr (fieldX w) (fieldY w))) ∧
  (∀ w : Word, w &&& 0xF00F = 0x800E → decode w = .instr (.shl (fieldX w) (fieldY w))) ∧
  ∀ x y (s : State) (b : Byte), b = (if s.cfg.shiftUsesVy then s.v[y] else s.v[x]) →
    (∃ t, exec (.shr x y) s = .next t ∧ t.v[15].toNat = b.toNat % 2 ∧
      (x ≠ 15 → t.v[x].toNat = b.toNat / 2) ∧
      (∀ r : Reg, r ≠ x → r ≠ 15 → t.v[r] = s.v[r]) ∧ t = { s with pc := s.pc + 2, v := t.v }) ∧
    (∃ t, exec (.shl x y) s = .next t ∧ t.v[15].toNat = b.toNat / 128 ∧
      (x ≠ 15 → t.v[x].toNat = b.toNat * 2 % 256) ∧
      (∀ r : Reg, r ≠ x → r ≠ 15 → t.v[r] = s.v[r]) ∧ t = { s with pc := s.pc + 2, v := t.v })

/-- R163: a fresh oracle draw (a free value, R10), masked: bits outside `nn` are 0. That the draw is `Config.freeByte` at the
counter `draws`, and that the counter moves on, is the model's form of the oracle (log entry 3). Rests on the spec's decision
D13 (log entry 17). -/
def Obligations.RandomByteIsMasked : Prop :=
  (∀ w : Word, w &&& 0xF000 = 0xC000 → decode w = .instr (.rnd (fieldX w) (fieldNN w))) ∧
  ∀ x nn (s : State), ∃ t, exec (.rnd x nn) s = .next t ∧ t.v[x] = Config.freeByte s.draws &&& nn ∧
    t.v[x] &&& ~~~nn = 0 ∧ (∀ r : Reg, r ≠ x → t.v[r] = s.v[r]) ∧
    t = { s with pc := s.pc + 2, v := t.v, draws := s.draws + 1 }

/-! ## Index register and memory -/

/-- R191, R192, R193: the three writers of `I`; none writes a flag. Rests on the spec's decisions D14, D15 (log entry 17). -/
def Obligations.IndexRegisterWrites : Prop :=
  (∀ w : Word, w &&& 0xF000 = 0xA000 → decode w = .instr (.ldI (fieldNNN w))) ∧
  (∀ w : Word, w &&& 0xF0FF = 0xF01E → decode w = .instr (.addI (fieldX w))) ∧
  (∀ w : Word, w &&& 0xF0FF = 0xF029 → decode w = .instr (.ldF (fieldX w))) ∧
  ∀ (s : State),
    (∀ nnn, ∃ t, exec (.ldI nnn) s = .next t ∧ t.index.toNat = nnn.toNat ∧
      t = { s with pc := s.pc + 2, index := t.index }) ∧
    (∀ x, ∃ t, exec (.addI x) s = .next t ∧ t.index.toNat = (s.index.toNat + s.v[x].toNat) % 65536 ∧
      t = { s with pc := s.pc + 2, index := t.index }) ∧
    (∀ x, ∃ t, exec (.ldF x) s = .next t ∧ t.index.toNat = s.v[x].toNat * 5 ∧
      t = { s with pc := s.pc + 2, index := t.index })

/-- R194: the three decimal digits at `I`, `I + 1`, `I + 2` modulo 4096, and every other byte unchanged. -/
def Obligations.DecimalDigitsStored : Prop :=
  (∀ w : Word, w &&& 0xF0FF = 0xF033 → decode w = .instr (.ldB (fieldX w))) ∧
  ∀ x (s : State), ∃ t, exec (.ldB x) s = .next t ∧
    (t.readMem s.index.toNat).toNat = s.v[x].toNat / 100 ∧
    (t.readMem (s.index.toNat + 1)).toNat = s.v[x].toNat / 10 % 10 ∧
    (t.readMem (s.index.toNat + 2)).toNat = s.v[x].toNat % 10 ∧
    (∀ a, (∀ k < 3, a % 4096 ≠ (s.index.toNat + k) % 4096) → t.readMem a = s.readMem a) ∧
    t = { s with pc := s.pc + 2, mem := t.mem }

/-- R195: `V0 .. Vx` stored from `I` upward modulo 4096, every other byte unchanged, `I` as BLOCK_INCREMENTS_I says. Rests on
the spec's decision D4 (log entry 17). -/
def Obligations.RegisterBlockStored : Prop :=
  (∀ w : Word, w &&& 0xF0FF = 0xF055 → decode w = .instr (.storeRegs (fieldX w))) ∧
  ∀ x (s : State), ∃ t, exec (.storeRegs x) s = .next t ∧
    (∀ r : Reg, r ≤ x → t.readMem (s.index.toNat + r.val) = s.v[r]) ∧
    (∀ a, (∀ r : Reg, r ≤ x → a % 4096 ≠ (s.index.toNat + r.val) % 4096) → t.readMem a = s.readMem a) ∧
    t.index.toNat = (if s.cfg.blockIncrementsI then (s.index.toNat + x.val + 1) % 65536 else s.index.toNat) ∧
    t = { s with pc := s.pc + 2, mem := t.mem, index := t.index }

/-- R196: `V0 .. Vx` loaded from `I` upward modulo 4096, the registers above `x` unchanged, `I` as BLOCK_INCREMENTS_I says.
Rests on the spec's decision D4 (log entry 17). -/
def Obligations.RegisterBlockLoaded : Prop :=
  (∀ w : Word, w &&& 0xF0FF = 0xF065 → decode w = .instr (.loadRegs (fieldX w))) ∧
  ∀ x (s : State), ∃ t, exec (.loadRegs x) s = .next t ∧
    (∀ r : Reg, r ≤ x → t.v[r] = s.readMem (s.index.toNat + r.val)) ∧ (∀ r : Reg, x < r → t.v[r] = s.v[r]) ∧
    t.index.toNat = (if s.cfg.blockIncrementsI then (s.index.toNat + x.val + 1) % 65536 else s.index.toNat) ∧
    t = { s with pc := s.pc + 2, v := t.v, index := t.index }

/-- R324: a word stored by Fx33 or Fx55 is what the very next fetch at its address gives. That no synchronisation is needed
(R73) rests on the spec's decision D33 (log entry 17). -/
def Obligations.StoredWordIsFetched : Prop := ∀ x (s t : State), t.pc.toNat ≤ 0xFFE →
  (exec (.storeRegs x) s = .next t → ∀ r q : Reg, q ≤ x → q.val = r.val + 1 →
    t.pc.toNat = (s.index.toNat + r.val) % 4096 → t.fetch = some (s.v[r] ++ s.v[q])) ∧
  (exec (.ldB x) s = .next t → t.pc.toNat = s.index.toNat % 4096 →
    t.fetch = some (BitVec.ofNat 16 (s.v[x].toNat / 100 * 256 + s.v[x].toNat / 10 % 10))) ∧
  (exec (.ldB x) s = .next t → t.pc.toNat = (s.index.toNat + 1) % 4096 →
    t.fetch = some (BitVec.ofNat 16 (s.v[x].toNat / 10 % 10 * 256 + s.v[x].toNat % 10)))

/-! ## Display -/

/-- R221: CLS. -/
def Obligations.ClearDisplay : Prop := decode 0x00E0 = .instr .cls ∧
  ∀ s : State, ∃ t, exec .cls s = .next t ∧ (∀ xx yy, pix t.disp xx yy = false) ∧
    t = { s with pc := s.pc + 2, disp := t.disp }

/-- R222: a pixel is toggled exactly when a set sprite bit lands on it, and VF says whether a set bit landed on a lit pixel.
For `n = 0` it rests on the spec's decision D35 (log entry 17). -/
def Obligations.SpriteTogglesPixels : Prop :=
  (∀ w : Word, w &&& 0xF000 = 0xD000 → decode w = .instr (.drw (fieldX w) (fieldY w) (fieldN w))) ∧
  ∀ x y n (s : State), ∃ t, exec (.drw x y n) s = .next t ∧
    (∀ xx < 64, ∀ yy < 32, (pix t.disp xx yy = true ↔
      ¬ (pix s.disp xx yy = true ↔ s.SpriteCovers s.v[x].toNat s.v[y].toNat n.val xx yy))) ∧
    (t.v[15] = 0 ∨ t.v[15] = 1) ∧
    (t.v[15] = 1 ↔ ∃ xx < 64, ∃ yy < 32,
      pix s.disp xx yy = true ∧ s.SpriteCovers s.v[x].toNat s.v[y].toNat n.val xx yy) ∧
    (∀ r : Reg, r ≠ 15 → t.v[r] = s.v[r]) ∧ t = { s with pc := s.pc + 2, v := t.v, disp := t.disp }

/-- R223, law 1: the same sprite drawn twice at the same place restores the display; the second draw collides exactly when some
set bit landed on a pixel that was unlit before the first. -/
def Obligations.SpriteDrawnTwiceRestores : Prop := ∀ x y n (s t u : State),
  exec (.drw x y n) s = .next t → t.v[x] = s.v[x] → t.v[y] = s.v[y] → exec (.drw x y n) t = .next u →
  u.disp = s.disp ∧ (u.v[15] = 1 ↔ ∃ xx < 64, ∃ yy < 32,
    pix s.disp xx yy = false ∧ s.SpriteCovers s.v[x].toNat s.v[y].toNat n.val xx yy)

/-- R223, laws 2 and 3: no collision on a clear display; VF = 0 exactly when the display afterwards is the display before OR the
sprite. -/
def Obligations.NoCollisionIsUnion : Prop := ∀ x y n (s t : State), exec (.drw x y n) s = .next t →
  (s.disp = 0 → t.v[15] = 0) ∧
  (t.v[15] = 0 ↔ ∀ xx < 64, ∀ yy < 32, (pix t.disp xx yy = true ↔
    pix s.disp xx yy = true ∨ s.SpriteCovers s.v[x].toNat s.v[y].toNat n.val xx yy))

/-- R223, law 4: the number of lit pixels changes by the set bits less twice the set bits that land on a lit pixel. -/
def Obligations.LitPixelsBalance : Prop := ∀ x y n (s t : State), exec (.drw x y n) s = .next t →
  litPixels t.disp + 2 * s.spriteHits s.v[x].toNat s.v[y].toNat n.val = litPixels s.disp + s.spriteBits n.val

/-! ## Keypad and timers -/

/-- R241, R242: the skips on a key; a value of 0x10 and above is never a pressed key, and the key stays held. That no value of
0x10 and above is a pressed key (R240) rests on the spec's decision D36 (log entry 17). -/
def Obligations.SkipsOnKey : Prop :=
  (∀ w : Word, w &&& 0xF0FF = 0xE09E → decode w = .instr (.skp (fieldX w))) ∧
  (∀ w : Word, w &&& 0xF0FF = 0xE0A1 → decode w = .instr (.sknp (fieldX w))) ∧
  ∀ x (s : State),
    ((∃ k : Key, s.keys[k] = true ∧ k.val = s.v[x].toNat) →
      exec (.skp x) s = .next { s with pc := s.pc + 4 } ∧ exec (.sknp x) s = .next { s with pc := s.pc + 2 }) ∧
    ((∀ k : Key, s.keys[k] = true → k.val ≠ s.v[x].toNat) →
      exec (.skp x) s = .next { s with pc := s.pc + 2 } ∧ exec (.sknp x) s = .next { s with pc := s.pc + 4 })

/-- R243: with no key held nothing changes, `pc` included; else one held key (an oracle draw, R244) is stored, and removed
when FX0A_REMOVES_KEY. That the counter `draws` moves on is the model's form of the oracle (log entry 3). Rests on the spec's
decision D12 (log entry 17). -/
def Obligations.KeyWait : Prop :=
  (∀ w : Word, w &&& 0xF0FF = 0xF00A → decode w = .instr (.ldVxK (fieldX w))) ∧
  ∀ x (s : State),
    ((∀ k : Key, s.keys[k] = false) → exec (.ldVxK x) s = .next s) ∧
    ((∃ k : Key, s.keys[k] = true) → ∃ (k : Key) (t : State), exec (.ldVxK x) s = .next t ∧ s.keys[k] = true ∧
      t.v[x].toNat = k.val ∧ (∀ r : Reg, r ≠ x → t.v[r] = s.v[r]) ∧
      (∀ q : Key, t.keys[q] = (s.keys[q] && !(s.cfg.fx0aRemovesKey && decide (q = k)))) ∧
      t = { s with pc := s.pc + 2, v := t.v, keys := t.keys, draws := s.draws + 1 })

/-- R245, R246, R247: the timer instructions. -/
def Obligations.TimerLoads : Prop :=
  (∀ w : Word, w &&& 0xF0FF = 0xF007 → decode w = .instr (.ldVxDt (fieldX w))) ∧
  (∀ w : Word, w &&& 0xF0FF = 0xF015 → decode w = .instr (.ldDtVx (fieldX w))) ∧
  (∀ w : Word, w &&& 0xF0FF = 0xF018 → decode w = .instr (.ldStVx (fieldX w))) ∧
  ∀ x (s : State),
    exec (.ldVxDt x) s = .next { s with pc := s.pc + 2, v := s.v.set x s.dt } ∧
    exec (.ldDtVx x) s = .next { s with pc := s.pc + 2, dt := s.v[x] } ∧
    exec (.ldStVx x) s = .next { s with pc := s.pc + 2, st := s.v[x] }

/-! ## What instructions leave alone: whole-machine rules -/

/-- R24: the instructions that may change VF: the six flag writers, and those that name VF as their destination. Rests on the
spec's decision D18 (log entry 17). -/
def Obligations.OnlyTheseWriteVF : Prop := ∀ i (s t : State), exec i s = .next t → t.v[15] ≠ s.v[15] →
  (∃ x y, i = .addReg x y ∨ i = .sub x y ∨ i = .shr x y ∨ i = .subn x y ∨ i = .shl x y) ∨
  (∃ x y n, i = .drw x y n) ∨
  (∃ nn, i = .ldImm 15 nn ∨ i = .addImm 15 nn ∨ i = .rnd 15 nn) ∨
  (∃ y, i = .ldReg 15 y ∨ i = .orReg 15 y ∨ i = .andReg 15 y ∨ i = .xorReg 15 y) ∨
  i = .ldVxDt 15 ∨ i = .ldVxK 15 ∨ i = .loadRegs 15

/-- R34, R66, R68: only CLS and DRW change the display, and only Fx33 and Fx55 change a byte of memory. -/
def Obligations.DisplayAndMemoryWriters : Prop := ∀ i (s t : State), exec i s = .next t →
  (t.disp ≠ s.disp → i = .cls ∨ ∃ x y n, i = .drw x y n) ∧
  ((∃ a, t.readMem a ≠ s.readMem a) → ∃ x, i = .ldB x ∨ i = .storeRegs x)

/-- R29, R32, R33, R36, R37, R38, R190, R271: which instructions may change `stack`, `I`, the timers, the keys and `status`;
none changes `paused`, `malformed_count` or a parameter. -/
def Obligations.SpecialStateWriters : Prop := ∀ i (s t : State), exec i s = .next t →
  (t.stack ≠ s.stack → i = .ret ∨ ∃ nnn, i = .call nnn) ∧
  (t.index ≠ s.index → (∃ nnn, i = .ldI nnn) ∨ (∃ x, i = .addI x ∨ i = .ldF x) ∨
    (s.cfg.blockIncrementsI = true ∧ ∃ x, i = .storeRegs x ∨ i = .loadRegs x)) ∧
  (t.dt ≠ s.dt → ∃ x, i = .ldDtVx x) ∧ (t.st ≠ s.st → ∃ x, i = .ldStVx x) ∧
  (t.keys ≠ s.keys → s.cfg.fx0aRemovesKey = true ∧ ∃ x, i = .ldVxK x) ∧
  (t.status ≠ s.status → i = .ret ∨ ∃ nnn, i = .call nnn) ∧
  t.paused = s.paused ∧ t.malformedCount = s.malformedCount ∧ t.cfg = s.cfg

/-- R93, R130: where `pc` goes: on by 2, but for the skips (2 or 4), the transfers, a waiting Fx0A and a step that halts. -/
def Obligations.PcAdvances : Prop := ∀ i (s t : State), exec i s = .next t →
  t.pc = s.pc + 2 ∨
  (t.pc = s.pc + 4 ∧ ∃ x y nn, i = .seImm x nn ∨ i = .sneImm x nn ∨ i = .seReg x y ∨ i = .sneReg x y ∨ i = .skp x ∨
    i = .sknp x) ∨
  (i = .ret ∨ ∃ nnn, i = .jp nnn ∨ i = .call nnn ∨ i = .jpV0 nnn) ∨
  (t = s ∧ ∃ x, i = .ldVxK x)

/-- R33, R36: no instruction reads ST or `malformed_count`: machines that differ in these alone step to machines that differ
in these alone. After Cxnn or Fx0A it leans on the model's choice that both runs see the same oracle answer at the same
counter `draws` (log entry 3). -/
def Obligations.SoundTimerAndCountAreNeverRead : Prop := ∀ (s t t' : State) (b : Byte) (n : Nat),
  step s = .next t → step { s with st := b, malformedCount := n } = .next t' →
  t' = { t with st := t'.st, malformedCount := t'.malformedCount }

/-! ## The other agents, loading and the tick -/

/-- R284: both timers count down by one and clamp at 0; a halted machine's do not. Rests on the spec's decisions D20, D22 (log
entry 17). -/
def Obligations.TimersCountDown : Prop := ∀ s : State,
  (s.status = .running → (decrementTimers s).dt.toNat = s.dt.toNat - 1 ∧ (decrementTimers s).st.toNat = s.st.toNat - 1 ∧
    decrementTimers s = { s with dt := (decrementTimers s).dt, st := (decrementTimers s).st }) ∧
  (s.status ≠ .running → decrementTimers s = s)

/-- R286, R287, R294: the key latch and the pause toggle change one thing, and key codes outside 0-15 are ignored. -/
def Obligations.KeysAndPauseFromOutside : Prop := ∀ (s : State) (code : Int),
  (∀ q : Key, (press code s).keys[q] = (s.keys[q] || decide (code = q.val))) ∧
  (∀ q : Key, (release code s).keys[q] = (s.keys[q] && !decide (code = q.val))) ∧
  press code s = { s with keys := (press code s).keys } ∧ release code s = { s with keys := (release code s).keys } ∧
  (code < 0 ∨ 16 ≤ code → press code s = s ∧ release code s = s) ∧
  togglePause s = { s with paused := !s.paused } ∧
  applyEvent (.press code) s = (press code s, .ok) ∧ applyEvent (.release code) s = (release code s, .ok)

/-- R310, R27, R67: what `new_machine()` gives, for every font parameter, and that State.reset is one such machine. Keys,
`paused`, `status` and `malformed_count` rest on the spec's decision D26, and the defaults of the open glyphs on D17 (log
entry 17). The parameters and the counter that State.reset carries are the model's choice (log entries 1 and 19). -/
def Obligations.NewMachineState : Prop := (∃ d, State.reset = newMachine defaultConfig d) ∧ ∀ cfg d (m : State),
  m = newMachine cfg d →
  (∀ r : Reg, m.v[r] = 0) ∧ m.index = 0 ∧ m.pc = 0x200 ∧ m.stack = [] ∧ m.dt = 0 ∧ m.st = 0 ∧
  (∀ xx < 64, ∀ yy < 32, pix m.disp xx yy = false) ∧ (∀ k : Key, m.keys[k] = false) ∧ m.paused = false ∧
  m.status = .running ∧ m.malformedCount = 0 ∧
  (List.range 5).map m.readMem = [0xF0, 0x90, 0x90, 0x90, 0xF0] ∧
  (∀ a (h : a < 70), m.readMem (5 + a) = cfg.glyphs1toE[a]) ∧
  (List.range 5).map (fun a => m.readMem (75 + a)) = [0xF0, 0x80, 0xF0, 0x80, 0x80] ∧
  (∀ a, 80 ≤ a → a < 4096 → m.readMem a = 0)

/-- R311, R312, R313: loading puts the bytes at 0x200 upward and changes nothing else; a load that fails changes nothing. That
an empty ROM is accepted rests on the spec's decision D38 (log entry 17). -/
def Obligations.RomLoading : Prop := ∀ s : State,
  loadRom none s = (s, .romNotFound) ∧
  (∀ bytes, bytes.length > 3584 → loadRom (some bytes) s = (s, .romTooLarge bytes.length)) ∧
  (∀ bytes, bytes.length ≤ 3584 → ∃ t, loadRom (some bytes) s = (t, .ok) ∧
    (∀ j (h : j < bytes.length), t.readMem (0x200 + j) = bytes[j]) ∧
    (∀ a < 4096, (a < 0x200 ∨ 0x200 + bytes.length ≤ a) → t.readMem a = s.readMem a) ∧ t = { s with mem := t.mem })

/-- R315: a ROM switch replaces the whole machine by a fresh one with the ROM loaded, or keeps it when the load fails. Rests
on the spec's decision D37 (log entry 17). That the parameters and the oracle's place, the model's own fields, are handed on
is log entry 11. -/
def Obligations.RomSwitchReplacesOrKeeps : Prop := ∀ s : State,
  romSwitch none s = (s, .romNotFound) ∧
  (∀ bytes, bytes.length > 3584 → romSwitch (some bytes) s = (s, .romTooLarge bytes.length)) ∧
  (∀ bytes, bytes.length ≤ 3584 → romSwitch (some bytes) s = loadRom (some bytes) (newMachine s.cfg s.draws) ∧
    (romSwitch (some bytes) s).2 = .ok)

/-- R317, R319: a tick is STEPS_PER_TICK steps and one decrement; it ends at the step that faults; a halted or paused
machine's tick changes nothing. Rests on the spec's decisions D20, D22 (log entry 17). -/
def Obligations.TickIsStepsThenDecrement : Prop := ∀ s : State,
  ((s.status ≠ .running ∨ s.paused = true) → tick s = (s, [])) ∧
  (s.status = .running → s.paused = false →
    (∀ k < s.cfg.stepsPerTick, (stepReport (stepState^[k] s)).isFault = false) →
    tick s = (decrementTimers (stepState^[s.cfg.stepsPerTick] s),
      (List.range s.cfg.stepsPerTick).map fun k => stepReport (stepState^[k] s))) ∧
  (s.status = .running → s.paused = false →
    ∀ k < s.cfg.stepsPerTick, (∀ j < k, (stepReport (stepState^[j] s)).isFault = false) →
    (stepReport (stepState^[k] s)).isFault = true →
    tick s = (stepState^[k + 1] s, (List.range (k + 1)).map fun j => stepReport (stepState^[j] s)))

/-- R318: a tick in which `paused` is set after `k` steps does no further step and no decrement; a paused tick changes
nothing. Rests on the spec's decisions D22, D23 (log entry 17). -/
def Obligations.PauseStopsTick : Prop := ∀ s : State,
  (s.paused = true → tick s = (s, [])) ∧
  (s.status = .running → s.paused = false → ∀ k ≤ s.cfg.stepsPerTick,
    (∀ j < k, (stepReport (stepState^[j] s)).isFault = false) →
    (tickWith (List.replicate k [] ++ [[.togglePause]]) s).1 = togglePause (stepState^[k] s))

/-- R322: while an Fx0A waits, a tick spends all its steps on it and the timers keep counting down. -/
def Obligations.KeyWaitBusyPolls : Prop := ∀ (s : State) w x, s.status = .running → s.paused = false →
  s.fetch = some w → decode w = .instr (.ldVxK x) → (∀ k : Key, s.keys[k] = false) →
  tick s = (decrementTimers s, List.replicate s.cfg.stepsPerTick .ok)
end

