-- ==== Sys2Proof/Laws/Decode.lean ====
section
/-! SUPPORT. The fields of a word as numbers, the fields of the words of each format, and the masks of R86 as conditions on
fields: what a proof about decoding cites instead of unfolding bit fields. -/

namespace Sys2Proof

/-! ## Fields as numbers -/

theorem fieldOp_val (w : Word) : (fieldOp w).val = w.toNat / 4096 := by
  have := w.isLt
  simp [fieldOp, Nat.shiftRight_eq_div_pow]
  omega

theorem fieldX_val (w : Word) : (fieldX w).val = w.toNat / 256 % 16 := by
  simp [fieldX, Nat.shiftRight_eq_div_pow]

theorem fieldY_val (w : Word) : (fieldY w).val = w.toNat / 16 % 16 := by
  simp [fieldY, Nat.shiftRight_eq_div_pow]

theorem fieldN_val (w : Word) : (fieldN w).val = w.toNat % 16 := by
  simp [fieldN]

theorem fieldNN_toNat (w : Word) : (fieldNN w).toNat = w.toNat % 256 := by
  simp [fieldNN, BitVec.extractLsb_toNat]

theorem fieldNNN_toNat (w : Word) : (fieldNNN w).toNat = w.toNat % 4096 := by
  simp [fieldNNN, BitVec.extractLsb_toNat]

/-! ## The words of the formats (R82) as numbers -/

theorem toNat_append_eq {a b : Nat} (u : BitVec a) (v : BitVec b) : (u ++ v).toNat = u.toNat * 2 ^ b + v.toNat := by
  rw [BitVec.toNat_append, ← Nat.shiftLeft_add_eq_or_of_lt v.isLt, Nat.shiftLeft_eq]

@[simp] theorem nibble_toNat (r : Fin 16) : (nibble r).toNat = r.val := rfl

theorem wordNNN_toNat (op : BitVec 4) (nnn : Imm12) : (wordNNN op nnn).toNat = op.toNat * 4096 + nnn.toNat :=
  toNat_append_eq op nnn

theorem wordXNN_toNat (op : BitVec 4) (x : Reg) (nn : Byte) :
    (wordXNN op x nn).toNat = op.toNat * 4096 + x.val * 256 + nn.toNat := by
  have h : (wordXNN op x nn).toNat = (op ++ nibble x).toNat * 2 ^ 8 + nn.toNat := toNat_append_eq _ nn
  rw [h, toNat_append_eq, nibble_toNat]; omega

theorem wordXYN_toNat (op : BitVec 4) (x y : Reg) (n : BitVec 4) :
    (wordXYN op x y n).toNat = op.toNat * 4096 + x.val * 256 + y.val * 16 + n.toNat := by
  have h : (wordXYN op x y n).toNat = (op ++ nibble x ++ nibble y).toNat * 2 ^ 4 + n.toNat := toNat_append_eq _ n
  rw [h, toNat_append_eq, toNat_append_eq, nibble_toNat, nibble_toNat]; omega

/-! ## The fields of the words of the formats -/

@[simp] theorem fieldOp_wordNNN (op : BitVec 4) (nnn : Imm12) : (fieldOp (wordNNN op nnn)).val = op.toNat := by
  have := nnn.isLt; rw [fieldOp_val, wordNNN_toNat]; omega

@[simp] theorem fieldNNN_wordNNN (op : BitVec 4) (nnn : Imm12) : fieldNNN (wordNNN op nnn) = nnn := by
  have := nnn.isLt; apply BitVec.eq_of_toNat_eq; rw [fieldNNN_toNat, wordNNN_toNat]; omega

@[simp] theorem fieldOp_wordXNN (op : BitVec 4) (x : Reg) (nn : Byte) : (fieldOp (wordXNN op x nn)).val = op.toNat := by
  have := nn.isLt; have := x.isLt; rw [fieldOp_val, wordXNN_toNat]; omega

@[simp] theorem fieldX_wordXNN (op : BitVec 4) (x : Reg) (nn : Byte) : fieldX (wordXNN op x nn) = x := by
  have := nn.isLt; have := x.isLt; apply Fin.ext; rw [fieldX_val, wordXNN_toNat]; omega

@[simp] theorem fieldNN_wordXNN (op : BitVec 4) (x : Reg) (nn : Byte) : fieldNN (wordXNN op x nn) = nn := by
  have := nn.isLt; apply BitVec.eq_of_toNat_eq; rw [fieldNN_toNat, wordXNN_toNat]; omega

@[simp] theorem fieldOp_wordXYN (op : BitVec 4) (x y : Reg) (n : BitVec 4) :
    (fieldOp (wordXYN op x y n)).val = op.toNat := by
  have := n.isLt; have := x.isLt; have := y.isLt; rw [fieldOp_val, wordXYN_toNat]; omega

@[simp] theorem fieldX_wordXYN (op : BitVec 4) (x y : Reg) (n : BitVec 4) : fieldX (wordXYN op x y n) = x := by
  have := n.isLt; have := x.isLt; have := y.isLt; apply Fin.ext; rw [fieldX_val, wordXYN_toNat]; omega

@[simp] theorem fieldY_wordXYN (op : BitVec 4) (x y : Reg) (n : BitVec 4) : fieldY (wordXYN op x y n) = y := by
  have := n.isLt; have := y.isLt; apply Fin.ext; rw [fieldY_val, wordXYN_toNat]; omega

@[simp] theorem fieldN_wordXYN (op : BitVec 4) (x y : Reg) (n : BitVec 4) : (fieldN (wordXYN op x y n)).val = n.toNat := by
  have := n.isLt; rw [fieldN_val, wordXYN_toNat]; omega

/-! ## The words rebuilt from their fields -/

theorem wordNNN_fields (w : Word) {op : BitVec 4} (h : (fieldOp w).val = op.toNat) : wordNNN op (fieldNNN w) = w := by
  apply BitVec.eq_of_toNat_eq
  rw [wordNNN_toNat, ← h, fieldOp_val, fieldNNN_toNat]; omega

theorem wordXNN_fields (w : Word) {op : BitVec 4} (h : (fieldOp w).val = op.toNat) :
    wordXNN op (fieldX w) (fieldNN w) = w := by
  apply BitVec.eq_of_toNat_eq
  rw [wordXNN_toNat, ← h, fieldOp_val, fieldX_val, fieldNN_toNat]; omega

theorem wordXYN_fields (w : Word) {op n : BitVec 4} (h : (fieldOp w).val = op.toNat) (hn : (fieldN w).val = n.toNat) :
    wordXYN op (fieldX w) (fieldY w) n = w := by
  apply BitVec.eq_of_toNat_eq
  rw [wordXYN_toNat, ← h, ← hn, fieldOp_val, fieldX_val, fieldY_val, fieldN_val]; omega

/-! ## The masks of R86 -/

theorem and_F000_toNat (w : Word) : (w &&& 0xF000#16).toNat = (fieldOp w).val * 4096 := by
  have h2 : w &&& 0xF000#16 = (w >>> 12) <<< 12 := by ext i; simp; interval_cases i <;> simp
  have := w.isLt
  rw [h2, fieldOp_val]; simp [Nat.shiftRight_eq_div_pow, Nat.shiftLeft_eq]; omega

/-- A mask of `op` and of low bits is the sum of the two parts. -/
theorem and_F000_or (w m : Word) (hm : m.toNat < 4096) :
    (w &&& (0xF000#16 ||| m)).toNat = (fieldOp w).val * 4096 + (w &&& m).toNat := by
  have hlt : (w &&& m).toNat < 2 ^ 12 := by
    rw [BitVec.toNat_and]; exact Nat.lt_of_le_of_lt Nat.and_le_right hm
  rw [BitVec.and_or_distrib_left, BitVec.toNat_or, and_F000_toNat, show (4096 : Nat) = 2 ^ 12 from rfl,
    ← Nat.shiftLeft_eq, Nat.shiftLeft_add_eq_or_of_lt hlt]

/-- `w & 0xF000` keeps `op`. -/
theorem and_F000 (w k : Word) : w &&& 0xF000#16 = k ↔ k.toNat = (fieldOp w).val * 4096 := by
  rw [← and_F000_toNat]
  exact ⟨fun e => by rw [e], fun e => (BitVec.eq_of_toNat_eq e).symm⟩

/-- `w & 0xF00F` keeps `op` and `n`. -/
theorem and_F00F (w k : Word) : w &&& 0xF00F#16 = k ↔ k.toNat = (fieldOp w).val * 4096 + (fieldN w).val := by
  have h : (w &&& 0xF#16).toNat = (fieldN w).val := by
    rw [fieldN_val, BitVec.toNat_and]; exact Nat.and_two_pow_sub_one_eq_mod w.toNat 4
  have h2 : (w &&& 0xF00F#16).toNat = _ := and_F000_or w 0xF#16 (by decide)
  rw [← h, ← h2]
  exact ⟨fun e => by rw [e], fun e => (BitVec.eq_of_toNat_eq e).symm⟩

/-- `w & 0xF0FF` keeps `op` and `nn`. -/
theorem and_F0FF (w k : Word) : w &&& 0xF0FF#16 = k ↔ k.toNat = (fieldOp w).val * 4096 + (fieldNN w).toNat := by
  have h : (w &&& 0xFF#16).toNat = (fieldNN w).toNat := by
    rw [fieldNN_toNat, BitVec.toNat_and]; exact Nat.and_two_pow_sub_one_eq_mod w.toNat 8
  have h2 : (w &&& 0xF0FF#16).toNat = _ := and_F000_or w 0xFF#16 (by decide)
  rw [← h, ← h2]
  exact ⟨fun e => by rw [e], fun e => (BitVec.eq_of_toNat_eq e).symm⟩

/-! ## Bytes and words (R61) -/

@[simp] theorem wordOfBytes_highByte_lowByte (w : Word) : wordOfBytes (highByte w) (lowByte w) = w := by
  apply BitVec.eq_of_toNat_eq
  have h : (wordOfBytes (highByte w) (lowByte w)).toNat = (highByte w).toNat * 2 ^ 8 + (lowByte w).toNat := toNat_append_eq _ _
  have := w.isLt
  rw [h]; simp [highByte, lowByte, BitVec.extractLsb_toNat, Nat.shiftRight_eq_div_pow]; omega

end Sys2Proof
end

