-- ==== Sys2Proof/Laws/State.lean ====
section
/-! SUPPORT. One lemma per field per update of State, and the reads of a byte of memory and of a register through the updates
that leave them alone: no later proof unfolds a record update. -/

namespace Sys2Proof.Machine.State

variable (s : State)

/-! ### `writeMem` -/

@[simp] theorem writeMem_mem (a : Nat) (b : Byte) : (s.writeMem a b).mem = Mem.write s.cfg s.mem (a % 4096) b := rfl
@[simp] theorem writeMem_v (a : Nat) (b : Byte) : (s.writeMem a b).v = s.v := rfl
@[simp] theorem writeMem_index (a : Nat) (b : Byte) : (s.writeMem a b).index = s.index := rfl
@[simp] theorem writeMem_pc (a : Nat) (b : Byte) : (s.writeMem a b).pc = s.pc := rfl
@[simp] theorem writeMem_stack (a : Nat) (b : Byte) : (s.writeMem a b).stack = s.stack := rfl
@[simp] theorem writeMem_dt (a : Nat) (b : Byte) : (s.writeMem a b).dt = s.dt := rfl
@[simp] theorem writeMem_st (a : Nat) (b : Byte) : (s.writeMem a b).st = s.st := rfl
@[simp] theorem writeMem_disp (a : Nat) (b : Byte) : (s.writeMem a b).disp = s.disp := rfl
@[simp] theorem writeMem_keys (a : Nat) (b : Byte) : (s.writeMem a b).keys = s.keys := rfl
@[simp] theorem writeMem_paused (a : Nat) (b : Byte) : (s.writeMem a b).paused = s.paused := rfl
@[simp] theorem writeMem_status (a : Nat) (b : Byte) : (s.writeMem a b).status = s.status := rfl
@[simp] theorem writeMem_malformedCount (a : Nat) (b : Byte) : (s.writeMem a b).malformedCount = s.malformedCount := rfl
@[simp] theorem writeMem_cfg (a : Nat) (b : Byte) : (s.writeMem a b).cfg = s.cfg := rfl
@[simp] theorem writeMem_draws (a : Nat) (b : Byte) : (s.writeMem a b).draws = s.draws := rfl
@[simp] theorem writeMem_readV (a : Nat) (b : Byte) (q : Reg) : (s.writeMem a b).readV q = s.readV q := rfl

/-! ### `writeV` -/

@[simp] theorem writeV_mem (r : Reg) (b : Byte) : (s.writeV r b).mem = s.mem := rfl
@[simp] theorem writeV_v (r : Reg) (b : Byte) : (s.writeV r b).v = s.v.set r b := rfl
@[simp] theorem writeV_index (r : Reg) (b : Byte) : (s.writeV r b).index = s.index := rfl
@[simp] theorem writeV_pc (r : Reg) (b : Byte) : (s.writeV r b).pc = s.pc := rfl
@[simp] theorem writeV_stack (r : Reg) (b : Byte) : (s.writeV r b).stack = s.stack := rfl
@[simp] theorem writeV_dt (r : Reg) (b : Byte) : (s.writeV r b).dt = s.dt := rfl
@[simp] theorem writeV_st (r : Reg) (b : Byte) : (s.writeV r b).st = s.st := rfl
@[simp] theorem writeV_disp (r : Reg) (b : Byte) : (s.writeV r b).disp = s.disp := rfl
@[simp] theorem writeV_keys (r : Reg) (b : Byte) : (s.writeV r b).keys = s.keys := rfl
@[simp] theorem writeV_paused (r : Reg) (b : Byte) : (s.writeV r b).paused = s.paused := rfl
@[simp] theorem writeV_status (r : Reg) (b : Byte) : (s.writeV r b).status = s.status := rfl
@[simp] theorem writeV_malformedCount (r : Reg) (b : Byte) : (s.writeV r b).malformedCount = s.malformedCount := rfl
@[simp] theorem writeV_cfg (r : Reg) (b : Byte) : (s.writeV r b).cfg = s.cfg := rfl
@[simp] theorem writeV_draws (r : Reg) (b : Byte) : (s.writeV r b).draws = s.draws := rfl
@[simp] theorem writeV_readMem (r : Reg) (b : Byte) (p : Nat) : (s.writeV r b).readMem p = s.readMem p := rfl

/-! ### `setIndex` -/

@[simp] theorem setIndex_mem (w : Word) : (s.setIndex w).mem = s.mem := rfl
@[simp] theorem setIndex_v (w : Word) : (s.setIndex w).v = s.v := rfl
@[simp] theorem setIndex_index (w : Word) : (s.setIndex w).index = w := rfl
@[simp] theorem setIndex_pc (w : Word) : (s.setIndex w).pc = s.pc := rfl
@[simp] theorem setIndex_stack (w : Word) : (s.setIndex w).stack = s.stack := rfl
@[simp] theorem setIndex_dt (w : Word) : (s.setIndex w).dt = s.dt := rfl
@[simp] theorem setIndex_st (w : Word) : (s.setIndex w).st = s.st := rfl
@[simp] theorem setIndex_disp (w : Word) : (s.setIndex w).disp = s.disp := rfl
@[simp] theorem setIndex_keys (w : Word) : (s.setIndex w).keys = s.keys := rfl
@[simp] theorem setIndex_paused (w : Word) : (s.setIndex w).paused = s.paused := rfl
@[simp] theorem setIndex_status (w : Word) : (s.setIndex w).status = s.status := rfl
@[simp] theorem setIndex_malformedCount (w : Word) : (s.setIndex w).malformedCount = s.malformedCount := rfl
@[simp] theorem setIndex_cfg (w : Word) : (s.setIndex w).cfg = s.cfg := rfl
@[simp] theorem setIndex_draws (w : Word) : (s.setIndex w).draws = s.draws := rfl
@[simp] theorem setIndex_readMem (w : Word) (p : Nat) : (s.setIndex w).readMem p = s.readMem p := rfl
@[simp] theorem setIndex_readV (w : Word) (q : Reg) : (s.setIndex w).readV q = s.readV q := rfl

/-! ### `setPc` -/

@[simp] theorem setPc_mem (w : Word) : (s.setPc w).mem = s.mem := rfl
@[simp] theorem setPc_v (w : Word) : (s.setPc w).v = s.v := rfl
@[simp] theorem setPc_index (w : Word) : (s.setPc w).index = s.index := rfl
@[simp] theorem setPc_pc (w : Word) : (s.setPc w).pc = w := rfl
@[simp] theorem setPc_stack (w : Word) : (s.setPc w).stack = s.stack := rfl
@[simp] theorem setPc_dt (w : Word) : (s.setPc w).dt = s.dt := rfl
@[simp] theorem setPc_st (w : Word) : (s.setPc w).st = s.st := rfl
@[simp] theorem setPc_disp (w : Word) : (s.setPc w).disp = s.disp := rfl
@[simp] theorem setPc_keys (w : Word) : (s.setPc w).keys = s.keys := rfl
@[simp] theorem setPc_paused (w : Word) : (s.setPc w).paused = s.paused := rfl
@[simp] theorem setPc_status (w : Word) : (s.setPc w).status = s.status := rfl
@[simp] theorem setPc_malformedCount (w : Word) : (s.setPc w).malformedCount = s.malformedCount := rfl
@[simp] theorem setPc_cfg (w : Word) : (s.setPc w).cfg = s.cfg := rfl
@[simp] theorem setPc_draws (w : Word) : (s.setPc w).draws = s.draws := rfl
@[simp] theorem setPc_readMem (w : Word) (p : Nat) : (s.setPc w).readMem p = s.readMem p := rfl
@[simp] theorem setPc_readV (w : Word) (q : Reg) : (s.setPc w).readV q = s.readV q := rfl

/-! ### `setDt` -/

@[simp] theorem setDt_mem (b : Byte) : (s.setDt b).mem = s.mem := rfl
@[simp] theorem setDt_v (b : Byte) : (s.setDt b).v = s.v := rfl
@[simp] theorem setDt_index (b : Byte) : (s.setDt b).index = s.index := rfl
@[simp] theorem setDt_pc (b : Byte) : (s.setDt b).pc = s.pc := rfl
@[simp] theorem setDt_stack (b : Byte) : (s.setDt b).stack = s.stack := rfl
@[simp] theorem setDt_dt (b : Byte) : (s.setDt b).dt = b := rfl
@[simp] theorem setDt_st (b : Byte) : (s.setDt b).st = s.st := rfl
@[simp] theorem setDt_disp (b : Byte) : (s.setDt b).disp = s.disp := rfl
@[simp] theorem setDt_keys (b : Byte) : (s.setDt b).keys = s.keys := rfl
@[simp] theorem setDt_paused (b : Byte) : (s.setDt b).paused = s.paused := rfl
@[simp] theorem setDt_status (b : Byte) : (s.setDt b).status = s.status := rfl
@[simp] theorem setDt_malformedCount (b : Byte) : (s.setDt b).malformedCount = s.malformedCount := rfl
@[simp] theorem setDt_cfg (b : Byte) : (s.setDt b).cfg = s.cfg := rfl
@[simp] theorem setDt_draws (b : Byte) : (s.setDt b).draws = s.draws := rfl
@[simp] theorem setDt_readMem (b : Byte) (p : Nat) : (s.setDt b).readMem p = s.readMem p := rfl
@[simp] theorem setDt_readV (b : Byte) (q : Reg) : (s.setDt b).readV q = s.readV q := rfl

/-! ### `setSt` -/

@[simp] theorem setSt_mem (b : Byte) : (s.setSt b).mem = s.mem := rfl
@[simp] theorem setSt_v (b : Byte) : (s.setSt b).v = s.v := rfl
@[simp] theorem setSt_index (b : Byte) : (s.setSt b).index = s.index := rfl
@[simp] theorem setSt_pc (b : Byte) : (s.setSt b).pc = s.pc := rfl
@[simp] theorem setSt_stack (b : Byte) : (s.setSt b).stack = s.stack := rfl
@[simp] theorem setSt_dt (b : Byte) : (s.setSt b).dt = s.dt := rfl
@[simp] theorem setSt_st (b : Byte) : (s.setSt b).st = b := rfl
@[simp] theorem setSt_disp (b : Byte) : (s.setSt b).disp = s.disp := rfl
@[simp] theorem setSt_keys (b : Byte) : (s.setSt b).keys = s.keys := rfl
@[simp] theorem setSt_paused (b : Byte) : (s.setSt b).paused = s.paused := rfl
@[simp] theorem setSt_status (b : Byte) : (s.setSt b).status = s.status := rfl
@[simp] theorem setSt_malformedCount (b : Byte) : (s.setSt b).malformedCount = s.malformedCount := rfl
@[simp] theorem setSt_cfg (b : Byte) : (s.setSt b).cfg = s.cfg := rfl
@[simp] theorem setSt_draws (b : Byte) : (s.setSt b).draws = s.draws := rfl
@[simp] theorem setSt_readMem (b : Byte) (p : Nat) : (s.setSt b).readMem p = s.readMem p := rfl
@[simp] theorem setSt_readV (b : Byte) (q : Reg) : (s.setSt b).readV q = s.readV q := rfl

/-! ### `advance` -/

@[simp] theorem advance_mem : (s.advance).mem = s.mem := rfl
@[simp] theorem advance_v : (s.advance).v = s.v := rfl
@[simp] theorem advance_index : (s.advance).index = s.index := rfl
@[simp] theorem advance_pc : (s.advance).pc = s.pc + 2 := rfl
@[simp] theorem advance_stack : (s.advance).stack = s.stack := rfl
@[simp] theorem advance_dt : (s.advance).dt = s.dt := rfl
@[simp] theorem advance_st : (s.advance).st = s.st := rfl
@[simp] theorem advance_disp : (s.advance).disp = s.disp := rfl
@[simp] theorem advance_keys : (s.advance).keys = s.keys := rfl
@[simp] theorem advance_paused : (s.advance).paused = s.paused := rfl
@[simp] theorem advance_status : (s.advance).status = s.status := rfl
@[simp] theorem advance_malformedCount : (s.advance).malformedCount = s.malformedCount := rfl
@[simp] theorem advance_cfg : (s.advance).cfg = s.cfg := rfl
@[simp] theorem advance_draws : (s.advance).draws = s.draws := rfl
@[simp] theorem advance_readMem (p : Nat) : (s.advance).readMem p = s.readMem p := rfl
@[simp] theorem advance_readV (q : Reg) : (s.advance).readV q = s.readV q := rfl

/-! ### `raise` -/

@[simp] theorem raise_mem (c : Terminal) : (s.raise c).mem = s.mem := rfl
@[simp] theorem raise_v (c : Terminal) : (s.raise c).v = s.v := rfl
@[simp] theorem raise_index (c : Terminal) : (s.raise c).index = s.index := rfl
@[simp] theorem raise_pc (c : Terminal) : (s.raise c).pc = s.pc := rfl
@[simp] theorem raise_stack (c : Terminal) : (s.raise c).stack = s.stack := rfl
@[simp] theorem raise_dt (c : Terminal) : (s.raise c).dt = s.dt := rfl
@[simp] theorem raise_st (c : Terminal) : (s.raise c).st = s.st := rfl
@[simp] theorem raise_disp (c : Terminal) : (s.raise c).disp = s.disp := rfl
@[simp] theorem raise_keys (c : Terminal) : (s.raise c).keys = s.keys := rfl
@[simp] theorem raise_paused (c : Terminal) : (s.raise c).paused = s.paused := rfl
@[simp] theorem raise_status (c : Terminal) : (s.raise c).status = .halted c := rfl
@[simp] theorem raise_malformedCount (c : Terminal) : (s.raise c).malformedCount = s.malformedCount := rfl
@[simp] theorem raise_cfg (c : Terminal) : (s.raise c).cfg = s.cfg := rfl
@[simp] theorem raise_draws (c : Terminal) : (s.raise c).draws = s.draws := rfl
@[simp] theorem raise_readMem (c : Terminal) (p : Nat) : (s.raise c).readMem p = s.readMem p := rfl
@[simp] theorem raise_readV (c : Terminal) (q : Reg) : (s.raise c).readV q = s.readV q := rfl

/-! ### `countMalformed` -/

@[simp] theorem countMalformed_mem : (s.countMalformed).mem = s.mem := rfl
@[simp] theorem countMalformed_v : (s.countMalformed).v = s.v := rfl
@[simp] theorem countMalformed_index : (s.countMalformed).index = s.index := rfl
@[simp] theorem countMalformed_pc : (s.countMalformed).pc = s.pc := rfl
@[simp] theorem countMalformed_stack : (s.countMalformed).stack = s.stack := rfl
@[simp] theorem countMalformed_dt : (s.countMalformed).dt = s.dt := rfl
@[simp] theorem countMalformed_st : (s.countMalformed).st = s.st := rfl
@[simp] theorem countMalformed_disp : (s.countMalformed).disp = s.disp := rfl
@[simp] theorem countMalformed_keys : (s.countMalformed).keys = s.keys := rfl
@[simp] theorem countMalformed_paused : (s.countMalformed).paused = s.paused := rfl
@[simp] theorem countMalformed_status : (s.countMalformed).status = s.status := rfl
@[simp] theorem countMalformed_malformedCount : (s.countMalformed).malformedCount = s.malformedCount + 1 := rfl
@[simp] theorem countMalformed_cfg : (s.countMalformed).cfg = s.cfg := rfl
@[simp] theorem countMalformed_draws : (s.countMalformed).draws = s.draws := rfl
@[simp] theorem countMalformed_readMem (p : Nat) : (s.countMalformed).readMem p = s.readMem p := rfl
@[simp] theorem countMalformed_readV (q : Reg) : (s.countMalformed).readV q = s.readV q := rfl

/-! ### `nextDraw` -/

@[simp] theorem nextDraw_mem : (s.nextDraw).mem = s.mem := rfl
@[simp] theorem nextDraw_v : (s.nextDraw).v = s.v := rfl
@[simp] theorem nextDraw_index : (s.nextDraw).index = s.index := rfl
@[simp] theorem nextDraw_pc : (s.nextDraw).pc = s.pc := rfl
@[simp] theorem nextDraw_stack : (s.nextDraw).stack = s.stack := rfl
@[simp] theorem nextDraw_dt : (s.nextDraw).dt = s.dt := rfl
@[simp] theorem nextDraw_st : (s.nextDraw).st = s.st := rfl
@[simp] theorem nextDraw_disp : (s.nextDraw).disp = s.disp := rfl
@[simp] theorem nextDraw_keys : (s.nextDraw).keys = s.keys := rfl
@[simp] theorem nextDraw_paused : (s.nextDraw).paused = s.paused := rfl
@[simp] theorem nextDraw_status : (s.nextDraw).status = s.status := rfl
@[simp] theorem nextDraw_malformedCount : (s.nextDraw).malformedCount = s.malformedCount := rfl
@[simp] theorem nextDraw_cfg : (s.nextDraw).cfg = s.cfg := rfl
@[simp] theorem nextDraw_draws : (s.nextDraw).draws = s.draws + 1 := rfl
@[simp] theorem nextDraw_readMem (p : Nat) : (s.nextDraw).readMem p = s.readMem p := rfl
@[simp] theorem nextDraw_readV (q : Reg) : (s.nextDraw).readV q = s.readV q := rfl

/-! ### `setKey` -/

@[simp] theorem setKey_mem (k : Key) (h : Bool) : (s.setKey k h).mem = s.mem := rfl
@[simp] theorem setKey_v (k : Key) (h : Bool) : (s.setKey k h).v = s.v := rfl
@[simp] theorem setKey_index (k : Key) (h : Bool) : (s.setKey k h).index = s.index := rfl
@[simp] theorem setKey_pc (k : Key) (h : Bool) : (s.setKey k h).pc = s.pc := rfl
@[simp] theorem setKey_stack (k : Key) (h : Bool) : (s.setKey k h).stack = s.stack := rfl
@[simp] theorem setKey_dt (k : Key) (h : Bool) : (s.setKey k h).dt = s.dt := rfl
@[simp] theorem setKey_st (k : Key) (h : Bool) : (s.setKey k h).st = s.st := rfl
@[simp] theorem setKey_disp (k : Key) (h : Bool) : (s.setKey k h).disp = s.disp := rfl
@[simp] theorem setKey_keys (k : Key) (h : Bool) : (s.setKey k h).keys = s.keys.set k h := rfl
@[simp] theorem setKey_paused (k : Key) (h : Bool) : (s.setKey k h).paused = s.paused := rfl
@[simp] theorem setKey_status (k : Key) (h : Bool) : (s.setKey k h).status = s.status := rfl
@[simp] theorem setKey_malformedCount (k : Key) (h : Bool) : (s.setKey k h).malformedCount = s.malformedCount := rfl
@[simp] theorem setKey_cfg (k : Key) (h : Bool) : (s.setKey k h).cfg = s.cfg := rfl
@[simp] theorem setKey_draws (k : Key) (h : Bool) : (s.setKey k h).draws = s.draws := rfl
@[simp] theorem setKey_readMem (k : Key) (h : Bool) (p : Nat) : (s.setKey k h).readMem p = s.readMem p := rfl
@[simp] theorem setKey_readV (k : Key) (h : Bool) (q : Reg) : (s.setKey k h).readV q = s.readV q := rfl

/-! ### `setDisp` -/

@[simp] theorem setDisp_mem (d : BitVec 2048) : (s.setDisp d).mem = s.mem := rfl
@[simp] theorem setDisp_v (d : BitVec 2048) : (s.setDisp d).v = s.v := rfl
@[simp] theorem setDisp_index (d : BitVec 2048) : (s.setDisp d).index = s.index := rfl
@[simp] theorem setDisp_pc (d : BitVec 2048) : (s.setDisp d).pc = s.pc := rfl
@[simp] theorem setDisp_stack (d : BitVec 2048) : (s.setDisp d).stack = s.stack := rfl
@[simp] theorem setDisp_dt (d : BitVec 2048) : (s.setDisp d).dt = s.dt := rfl
@[simp] theorem setDisp_st (d : BitVec 2048) : (s.setDisp d).st = s.st := rfl
@[simp] theorem setDisp_disp (d : BitVec 2048) : (s.setDisp d).disp = d := rfl
@[simp] theorem setDisp_keys (d : BitVec 2048) : (s.setDisp d).keys = s.keys := rfl
@[simp] theorem setDisp_paused (d : BitVec 2048) : (s.setDisp d).paused = s.paused := rfl
@[simp] theorem setDisp_status (d : BitVec 2048) : (s.setDisp d).status = s.status := rfl
@[simp] theorem setDisp_malformedCount (d : BitVec 2048) : (s.setDisp d).malformedCount = s.malformedCount := rfl
@[simp] theorem setDisp_cfg (d : BitVec 2048) : (s.setDisp d).cfg = s.cfg := rfl
@[simp] theorem setDisp_draws (d : BitVec 2048) : (s.setDisp d).draws = s.draws := rfl
@[simp] theorem setDisp_readMem (d : BitVec 2048) (p : Nat) : (s.setDisp d).readMem p = s.readMem p := rfl
@[simp] theorem setDisp_readV (d : BitVec 2048) (q : Reg) : (s.setDisp d).readV q = s.readV q := rfl

/-! ### `skipIf` -/

@[simp] theorem skipIf_mem (c : Bool) : (s.skipIf c).mem = s.mem := by cases c <;> rfl
@[simp] theorem skipIf_v (c : Bool) : (s.skipIf c).v = s.v := by cases c <;> rfl
@[simp] theorem skipIf_index (c : Bool) : (s.skipIf c).index = s.index := by cases c <;> rfl
@[simp] theorem skipIf_pc (c : Bool) : (s.skipIf c).pc = if c then s.pc + 2 else s.pc := by cases c <;> rfl
@[simp] theorem skipIf_stack (c : Bool) : (s.skipIf c).stack = s.stack := by cases c <;> rfl
@[simp] theorem skipIf_dt (c : Bool) : (s.skipIf c).dt = s.dt := by cases c <;> rfl
@[simp] theorem skipIf_st (c : Bool) : (s.skipIf c).st = s.st := by cases c <;> rfl
@[simp] theorem skipIf_disp (c : Bool) : (s.skipIf c).disp = s.disp := by cases c <;> rfl
@[simp] theorem skipIf_keys (c : Bool) : (s.skipIf c).keys = s.keys := by cases c <;> rfl
@[simp] theorem skipIf_paused (c : Bool) : (s.skipIf c).paused = s.paused := by cases c <;> rfl
@[simp] theorem skipIf_status (c : Bool) : (s.skipIf c).status = s.status := by cases c <;> rfl
@[simp] theorem skipIf_malformedCount (c : Bool) : (s.skipIf c).malformedCount = s.malformedCount := by cases c <;> rfl
@[simp] theorem skipIf_cfg (c : Bool) : (s.skipIf c).cfg = s.cfg := by cases c <;> rfl
@[simp] theorem skipIf_draws (c : Bool) : (s.skipIf c).draws = s.draws := by cases c <;> rfl
@[simp] theorem skipIf_readMem (c : Bool) (p : Nat) : (s.skipIf c).readMem p = s.readMem p := by cases c <;> rfl
@[simp] theorem skipIf_readV (c : Bool) (q : Reg) : (s.skipIf c).readV q = s.readV q := by cases c <;> rfl

/-! ### `writeDataThenFlag` -/

@[simp] theorem writeDataThenFlag_mem (x : Reg) (d f : Byte) : (s.writeDataThenFlag x d f).mem = s.mem := rfl
@[simp] theorem writeDataThenFlag_v (x : Reg) (d f : Byte) : (s.writeDataThenFlag x d f).v = (s.v.set x d).set flagReg f := rfl
@[simp] theorem writeDataThenFlag_index (x : Reg) (d f : Byte) : (s.writeDataThenFlag x d f).index = s.index := rfl
@[simp] theorem writeDataThenFlag_pc (x : Reg) (d f : Byte) : (s.writeDataThenFlag x d f).pc = s.pc := rfl
@[simp] theorem writeDataThenFlag_stack (x : Reg) (d f : Byte) : (s.writeDataThenFlag x d f).stack = s.stack := rfl
@[simp] theorem writeDataThenFlag_dt (x : Reg) (d f : Byte) : (s.writeDataThenFlag x d f).dt = s.dt := rfl
@[simp] theorem writeDataThenFlag_st (x : Reg) (d f : Byte) : (s.writeDataThenFlag x d f).st = s.st := rfl
@[simp] theorem writeDataThenFlag_disp (x : Reg) (d f : Byte) : (s.writeDataThenFlag x d f).disp = s.disp := rfl
@[simp] theorem writeDataThenFlag_keys (x : Reg) (d f : Byte) : (s.writeDataThenFlag x d f).keys = s.keys := rfl
@[simp] theorem writeDataThenFlag_paused (x : Reg) (d f : Byte) : (s.writeDataThenFlag x d f).paused = s.paused := rfl
@[simp] theorem writeDataThenFlag_status (x : Reg) (d f : Byte) : (s.writeDataThenFlag x d f).status = s.status := rfl
@[simp] theorem writeDataThenFlag_malformedCount (x : Reg) (d f : Byte) : (s.writeDataThenFlag x d f).malformedCount = s.malformedCount := rfl
@[simp] theorem writeDataThenFlag_cfg (x : Reg) (d f : Byte) : (s.writeDataThenFlag x d f).cfg = s.cfg := rfl
@[simp] theorem writeDataThenFlag_draws (x : Reg) (d f : Byte) : (s.writeDataThenFlag x d f).draws = s.draws := rfl
@[simp] theorem writeDataThenFlag_readMem (x : Reg) (d f : Byte) (p : Nat) : (s.writeDataThenFlag x d f).readMem p = s.readMem p := rfl

/-! ### Equality -/

/-- Two machines are equal when every field is. -/
theorem ext_fields {s t : State} (hmem : s.mem = t.mem) (hv : s.v = t.v) (hindex : s.index = t.index) (hpc : s.pc = t.pc)
    (hstack : s.stack = t.stack) (hdt : s.dt = t.dt) (hst : s.st = t.st) (hdisp : s.disp = t.disp) (hkeys : s.keys = t.keys)
    (hpaused : s.paused = t.paused) (hstatus : s.status = t.status) (hcount : s.malformedCount = t.malformedCount)
    (hcfg : s.cfg = t.cfg) (hdraws : s.draws = t.draws) : s = t := by
  cases s; cases t; simp_all

end Sys2Proof.Machine.State
end

