-- ==== Sys2Proof/Laws/Memory.lean ====
section
/-! SUPPORT. Memory: a read after a write, the canonical form, and that equal memories are equal data. -/

namespace Sys2Proof.Machine

namespace Mem

theorem lookup_insert_same (m : Mem) (a : Nat) (v : Byte) : (m.insert a v).lookup a = some v := by
  induction m with
  | nil => simp [insert, lookup]
  | cons c m ih =>
    obtain ⟨k, b⟩ := c
    unfold insert
    split
    · simp [lookup]
    · split
      · simp [lookup]
      · next h => simp [lookup, Ne.symm h, ih]

theorem lookup_insert_other (m : Mem) {a a' : Nat} (v : Byte) (h : a' ≠ a) : (m.insert a v).lookup a' = m.lookup a' := by
  induction m with
  | nil => simp [insert, lookup, Ne.symm h]
  | cons c m ih =>
    obtain ⟨k, b⟩ := c
    unfold insert
    split
    · simp [lookup, Ne.symm h]
    · split
      · next hk => subst hk; simp [lookup, Ne.symm h]
      · simp [lookup, ih]

theorem erase_cons (k a : Nat) (b : Byte) (m : Mem) :
    Mem.erase ((k, b) :: m) a = if k = a then m.erase a else (k, b) :: m.erase a := by
  by_cases h : k = a <;> simp [erase, h]

theorem lookup_erase_other (m : Mem) {a a' : Nat} (h : a' ≠ a) : (m.erase a).lookup a' = m.lookup a' := by
  induction m with
  | nil => rfl
  | cons c m ih =>
    obtain ⟨k, b⟩ := c
    rw [erase_cons]
    split
    · next hk => subst hk; simp [lookup, Ne.symm h, ih]
    · simp [lookup, ih]

theorem lookup_erase_same (m : Mem) (a : Nat) : (m.erase a).lookup a = none := by
  induction m with
  | nil => rfl
  | cons c m ih =>
    obtain ⟨k, b⟩ := c
    rw [erase_cons]
    split
    · exact ih
    · next hk => simp [lookup, hk, ih]

theorem mem_of_mem_insert {m : Mem} {a : Nat} {v : Byte} {c : Host.Cell} (h : c ∈ m.insert a v) : c = (a, v) ∨ c ∈ m := by
  induction m with
  | nil => simpa [insert] using h
  | cons d m ih =>
    obtain ⟨k, b⟩ := d
    unfold insert at h
    split at h
    · simpa using h
    · split at h
      · rcases List.mem_cons.1 h with h | h
        · exact .inl h
        · exact .inr (List.mem_cons_of_mem _ h)
      · rcases List.mem_cons.1 h with h | h
        · exact .inr (by simp [h])
        · exact (ih h).imp id (List.mem_cons_of_mem _)

theorem mem_of_mem_erase {m : Mem} {a : Nat} {c : Host.Cell} (h : c ∈ m.erase a) : c ∈ m := List.mem_of_mem_filter h

theorem insert_rising {m : Mem} (a : Nat) (v : Byte) (h : m.Pairwise fun p q => p.1 < q.1) :
    (m.insert a v).Pairwise fun p q => p.1 < q.1 := by
  induction m with
  | nil => simp [insert]
  | cons c m ih =>
    obtain ⟨k, b⟩ := c
    have hc := List.pairwise_cons.1 h
    unfold insert
    split
    · next hlt =>
      refine List.pairwise_cons.2 ⟨fun d hd => ?_, h⟩
      rcases List.mem_cons.1 hd with rfl | hd
      · exact hlt
      · exact Nat.lt_trans hlt (hc.1 d hd)
    · split
      · next hk => subst hk; exact List.pairwise_cons.2 ⟨hc.1, hc.2⟩
      · next h1 h2 =>
        refine List.pairwise_cons.2 ⟨fun d hd => ?_, ih hc.2⟩
        rcases mem_of_mem_insert hd with rfl | hd
        · exact Nat.lt_of_le_of_ne (Nat.le_of_not_lt h1) (Ne.symm h2)
        · exact hc.1 d hd

theorem erase_rising {m : Mem} (a : Nat) (h : m.Pairwise fun p q => p.1 < q.1) :
    (m.erase a).Pairwise fun p q => p.1 < q.1 := h.sublist List.filter_sublist

/-- Reading the address written gives the byte written, whatever the list. -/
theorem read_write_same (cfg : Config) (m : Mem) (a : Nat) (v : Byte) :
    read cfg (write cfg m a v) a = v := by
  unfold read write
  split
  · next hv => simp [lookup_erase_same, hv]
  · simp [lookup_insert_same]

/-- Reading any other address gives what it gave before. -/
theorem read_write_other (cfg : Config) (m : Mem) {a a' : Nat} (v : Byte) (h : a' ≠ a) :
    read cfg (write cfg m a v) a' = read cfg m a' := by
  unfold read write
  split
  · rw [lookup_erase_other m h]
  · rw [lookup_insert_other m v h]

/-- A write keeps the canonical form. -/
theorem write_wf {cfg : Config} {m : Mem} {a : Nat} (v : Byte) (ha : a < 4096) (h : wf cfg m) : wf cfg (write cfg m a v) := by
  unfold write
  split
  · exact ⟨erase_rising a h.1, fun c hc => h.2 c (mem_of_mem_erase hc)⟩
  · next hv =>
    refine ⟨insert_rising a v h.1, fun c hc => ?_⟩
    rcases mem_of_mem_insert hc with rfl | hc
    · exact ⟨ha, hv⟩
    · exact h.2 c hc

/-- The memory that lists nothing is in canonical form. -/
theorem nil_wf (cfg : Config) : wf cfg [] := by simp [wf]

theorem lookup_eq_some_of_mem {m : Mem} {k : Nat} {b : Byte} (h : m.Pairwise fun p q => p.1 < q.1) (hm : (k, b) ∈ m) :
    m.lookup k = some b := by
  induction m with
  | nil => simp at hm
  | cons c m ih =>
    obtain ⟨k', b'⟩ := c
    have hc := List.pairwise_cons.1 h
    rcases List.mem_cons.1 hm with he | hm
    · injection he with h1 h2; simp [lookup, h1, h2]
    · have : k' < k := hc.1 _ hm
      simp [lookup, Nat.ne_of_lt this, ih hc.2 hm]

theorem mem_of_lookup_eq_some {m : Mem} {k : Nat} {b : Byte} (h : m.lookup k = some b) : (k, b) ∈ m := by
  induction m with
  | nil => simp [lookup] at h
  | cons c m ih =>
    obtain ⟨k', b'⟩ := c
    unfold lookup at h
    split at h
    · next hk => injection h with h; simp [hk, h]
    · exact List.mem_cons_of_mem _ (ih h)

/-- In canonical form an address is listed exactly when it reads differently from the reset contents. -/
theorem mem_iff_read {cfg : Config} {m : Mem} (h : wf cfg m) (k : Nat) (b : Byte) :
    (k, b) ∈ m ↔ read cfg m k = b ∧ b ≠ resetByte cfg k := by
  constructor
  · intro hm
    exact ⟨by simp [read, lookup_eq_some_of_mem h.1 hm], (h.2 _ hm).2⟩
  · rintro ⟨hr, hb⟩
    unfold read at hr
    cases hl : m.lookup k with
    | none => simp [hl] at hr; exact absurd hr.symm hb
    | some c => simp [hl] at hr; subst hr; exact mem_of_lookup_eq_some hl

/-- Two lists of rising addresses with the same entries are the same list. -/
theorem eq_of_same_entries {m m' : Mem} (h : m.Pairwise fun p q => p.1 < q.1) (h' : m'.Pairwise fun p q => p.1 < q.1)
    (hm : ∀ c, c ∈ m ↔ c ∈ m') : m = m' := by
  induction m generalizing m' with
  | nil =>
    cases m' with
    | nil => rfl
    | cons d m' => exact absurd ((hm d).2 (by simp)) (by simp)
  | cons c m ih =>
    cases m' with
    | nil => exact absurd ((hm c).1 (by simp)) (by simp)
    | cons d m' =>
      obtain ⟨hc, hs⟩ := List.pairwise_cons.1 h
      obtain ⟨hd, hs'⟩ := List.pairwise_cons.1 h'
      have hcd : c = d := by
        rcases List.mem_cons.1 ((hm c).1 (by simp)) with e | hcm
        · exact e
        · rcases List.mem_cons.1 ((hm d).2 (by simp)) with e | hdm
          · exact e.symm
          · exact absurd (hd c hcm) (Nat.lt_asymm (hc d hdm))
      subst hcd
      refine congrArg (c :: ·) (ih hs hs' fun e => ⟨fun he => ?_, fun he => ?_⟩)
      · exact (List.mem_cons.1 ((hm e).1 (List.mem_cons_of_mem _ he))).resolve_left
          fun hec => Nat.lt_irrefl _ (hec ▸ hc e he)
      · exact (List.mem_cons.1 ((hm e).2 (List.mem_cons_of_mem _ he))).resolve_left
          fun hec => Nat.lt_irrefl _ (hec ▸ hd e he)

/-- Equal memories are equal data: two memories in canonical form that read alike are the same list. -/
theorem eq_of_read_eq {cfg : Config} {m m' : Mem} (h : wf cfg m) (h' : wf cfg m')
    (hr : ∀ a, read cfg m a = read cfg m' a) : m = m' :=
  eq_of_same_entries h.1 h'.1 fun c => by rw [mem_iff_read h c.1 c.2, mem_iff_read h' c.1 c.2, hr]

end Mem

namespace State

/-- A byte written is read back (R69), at every address that reduces to the same cell (R62). -/
theorem readMem_writeMem_same (s : State) (a p : Nat) (b : Byte) (hp : p % 4096 = a % 4096) : (s.writeMem a b).readMem p = b := by
  simp [readMem, hp, Mem.read_write_same]

/-- Every other byte is left alone. -/
theorem readMem_writeMem_other (s : State) (a p : Nat) (b : Byte) (hp : p % 4096 ≠ a % 4096) :
    (s.writeMem a b).readMem p = s.readMem p := by
  simp [readMem, Mem.read_write_other s.cfg s.mem b hp]

/-- A write keeps the canonical form of memory. -/
theorem writeMem_wf {s : State} (a : Nat) (b : Byte) (h : Mem.wf s.cfg s.mem) :
    Mem.wf (s.writeMem a b).cfg (s.writeMem a b).mem :=
  Mem.write_wf b (Nat.mod_lt _ (by decide)) h

/-- Memory after reset is in canonical form. -/
theorem reset_wf : Mem.wf State.reset.cfg State.reset.mem := Mem.nil_wf _

end State

end Sys2Proof.Machine
end

