-- ==== Sys2Proof/Laws/Ops.lean ====
section
/-! SUPPORT. What each shared operation does, said once: registers, stack and commit, the register blocks, keys, the oracle's
choice of a key, pixels. -/

namespace Sys2Proof.Machine

namespace State

variable (s : State)

/-! ## Registers -/

/-- The two spellings of a register's value. -/
theorem v_eq_readV (r : Reg) : s.v[r] = s.readV r := rfl

@[simp] theorem readV_writeV_same (r : Reg) (b : Byte) : (s.writeV r b).readV r = b := by simp [readV, writeV]

theorem readV_writeV_other {r q : Reg} (b : Byte) (h : q ≠ r) : (s.writeV r b).readV q = s.readV q := by
  have h' : r.val ≠ q.val := fun e => h (Fin.ext e.symm)
  simp [readV, writeV, Vector.getElem_set_ne, h']

/-- What a register reads after a register write. -/
theorem readV_writeV (r q : Reg) (b : Byte) : (s.writeV r b).readV q = if q = r then b else s.readV q := by
  split
  · next h => subst h; simp
  · next h => exact s.readV_writeV_other b h

/-- R25: after a data write and a flag write, VF holds the flag, and any other destination the data. -/
theorem readV_writeDataThenFlag (x q : Reg) (d f : Byte) :
    (s.writeDataThenFlag x d f).readV q = if q = flagReg then f else if q = x then d else s.readV q := by
  simp [writeDataThenFlag, readV_writeV]

/-! ## Stack and commit (R31, R95) -/

/-- Everything `push` can do. -/
theorem push_eq (a : Word) : s.push a =
    if s.stack.length = s.cfg.stackDepth then .error .stackOverflow else .ok { s with stack := s.stack ++ [a] } := rfl

/-- Everything `pop` can do: it takes the last entry, or underflows. -/
theorem pop_cases : (s.stack = [] ∧ s.pop = .error .stackUnderflow) ∨
    ∃ l a, s.stack = l ++ [a] ∧ s.pop = .ok (a, { s with stack := l }) := by
  rcases List.eq_nil_or_concat s.stack with h | ⟨l, a, h⟩
  · exact .inl ⟨h, by simp [pop, h]⟩
  · exact .inr ⟨l, a, by simpa using h, by simp [pop, h]⟩

/-- Everything `commit` can do. -/
theorem commit_eq (r : Except Terminal State) : s.commit r =
    .next (match r with | .ok t => t | .error c => s.raise c) := by cases r <;> rfl

/-! ## The register blocks (R195, R196) -/

theorem mem_regsUpTo {x r : Reg} : r ∈ regsUpTo x ↔ r ≤ x := by simp [regsUpTo]

theorem regsUpTo_nodup (x : Reg) : (regsUpTo x).Nodup := (List.nodup_finRange 16).filter _

theorem storeList_fields (f : Reg → Nat) (g : Reg → Byte) (l : List Reg) (s : State) :
    l.foldl (fun t r => t.writeMem (f r) (g r)) s =
      { s with mem := (l.foldl (fun t r => t.writeMem (f r) (g r)) s).mem } := by
  induction l generalizing s with
  | nil => rfl
  | cons r l ih => rw [List.foldl_cons, ih]; rfl

theorem storeList_other (f : Reg → Nat) (g : Reg → Byte) (l : List Reg) (s : State) (p : Nat)
    (hp : ∀ r ∈ l, p % 4096 ≠ f r % 4096) :
    (l.foldl (fun t r => t.writeMem (f r) (g r)) s).readMem p = s.readMem p := by
  induction l generalizing s with
  | nil => rfl
  | cons r l ih =>
    rw [List.foldl_cons, ih _ fun q hq => hp q (by simp [hq]), readMem_writeMem_other]
    exact hp r (by simp)

theorem storeList_at (f : Reg → Nat) (g : Reg → Byte) (l : List Reg) (s : State) (hl : l.Nodup)
    (hf : ∀ r ∈ l, ∀ q ∈ l, r ≠ q → f r % 4096 ≠ f q % 4096) {q : Reg} (hq : q ∈ l) :
    (l.foldl (fun t r => t.writeMem (f r) (g r)) s).readMem (f q) = g q := by
  induction l generalizing s with
  | nil => simp at hq
  | cons r l ih =>
    obtain ⟨hr, hl⟩ := List.nodup_cons.1 hl
    rw [List.foldl_cons]
    rcases List.mem_cons.1 hq with rfl | hq
    · rw [storeList_other f g l _ _ fun r' hr' => hf q (by simp) r' (by simp [hr']) fun e => hr (e ▸ hr')]
      exact readMem_writeMem_same _ _ _ _ rfl
    · exact ih _ hl (fun a ha b hb => hf a (by simp [ha]) b (by simp [hb])) hq

/-- A block store changes nothing but memory. -/
theorem storeBlock_fields (x : Reg) : s.storeBlock x = { s with mem := (s.storeBlock x).mem } :=
  storeList_fields _ _ _ s

/-- A block store leaves every byte outside the block alone. -/
theorem storeBlock_other (x : Reg) (p : Nat) (hp : ∀ r ≤ x, p % 4096 ≠ (s.index.toNat + r.val) % 4096) :
    (s.storeBlock x).readMem p = s.readMem p :=
  storeList_other _ _ _ s p fun r hr => hp r (mem_regsUpTo.1 hr)

/-- A block store puts `V[r]` at `I + r`: the addresses of a block are distinct. -/
theorem storeBlock_at (x r : Reg) (hr : r ≤ x) : (s.storeBlock x).readMem (s.index.toNat + r.val) = s.readV r := by
  refine storeList_at (fun r => s.indexed r.val) s.readV _ s (regsUpTo_nodup x) (fun a _ b _ hab => ?_) (mem_regsUpTo.2 hr)
  have ha := a.isLt; have hb := b.isLt
  have : a.val ≠ b.val := fun e => hab (Fin.ext e)
  simp only [indexed]; omega

theorem loadList_fields (g : Reg → Byte) (l : List Reg) (s : State) :
    l.foldl (fun t r => t.writeV r (g r)) s = { s with v := (l.foldl (fun t r => t.writeV r (g r)) s).v } := by
  induction l generalizing s with
  | nil => rfl
  | cons r l ih => rw [List.foldl_cons, ih]; rfl

theorem loadList_readV (g : Reg → Byte) (l : List Reg) (s : State) (q : Reg) :
    (l.foldl (fun t r => t.writeV r (g r)) s).readV q = if q ∈ l then g q else s.readV q := by
  induction l generalizing s with
  | nil => simp
  | cons r l ih =>
    rw [List.foldl_cons, ih, readV_writeV]
    by_cases h : q ∈ l
    · simp [h]
    · by_cases hr : q = r
      · subst hr; simp [h]
      · simp [h, hr]

/-- A block load changes nothing but `V`. -/
theorem loadBlock_fields (x : Reg) : s.loadBlock x = { s with v := (s.loadBlock x).v } := loadList_fields _ _ s

/-- A block load fills `V0 .. Vx` and leaves the registers above alone. -/
theorem loadBlock_readV (x q : Reg) :
    (s.loadBlock x).readV q = if q ≤ x then s.readMem (s.index.toNat + q.val) else s.readV q := by
  have h := loadList_readV (fun r => s.readMem (s.indexed r.val)) (regsUpTo x) s q
  rw [loadBlock, h]
  by_cases hq : q ≤ x
  · rw [if_pos hq, if_pos (mem_regsUpTo.2 hq), indexed]
  · rw [if_neg hq, if_neg fun hm => hq (mem_regsUpTo.1 hm)]

/-- `blockIndex` changes nothing but `I`. -/
theorem blockIndex_eq (x : Reg) : s.blockIndex x = { s with
    index := if s.cfg.blockIncrementsI then BitVec.ofNat 16 (s.index.toNat + x.val + 1) else s.index } := by
  unfold blockIndex; split <;> rfl

@[simp] theorem blockIndex_readMem (x : Reg) (p : Nat) : (s.blockIndex x).readMem p = s.readMem p := by
  rw [blockIndex_eq]; rfl

@[simp] theorem blockIndex_readV (x q : Reg) : (s.blockIndex x).readV q = s.readV q := by rw [blockIndex_eq]; rfl

/-! ## Keys (R37, R240, R244) -/

theorem mem_heldKeys {k : Key} : k ∈ s.heldKeys ↔ s.keys[k] = true := by simp [heldKeys]

/-- R240: a value is a pressed key when it is the code of a held key. -/
theorem isPressed_iff (b : Byte) : s.isPressed b = true ↔ ∃ k ∈ s.heldKeys, k.val = b.toNat := by
  simp only [mem_heldKeys, isPressed]
  constructor
  · intro h
    split at h
    · next hb => exact ⟨⟨b.toNat, hb⟩, h, rfl⟩
    · simp at h
  · rintro ⟨k, hk, e⟩
    have hb : b.toNat < 16 := e ▸ k.isLt
    simp only [hb, dif_pos]
    have : k = ⟨b.toNat, hb⟩ := Fin.ext e
    subst this; exact hk

end State

/-- The oracle's choice is one of the keys (R244). -/
theorem pickKey_mem (k : Key) (ks : List Key) (place : Nat) : pickKey k ks place ∈ k :: ks := by
  induction ks generalizing k place with
  | nil => simp [pickKey]
  | cons k' ks ih =>
    unfold pickKey
    split
    · simp
    · exact List.mem_cons_of_mem _ (ih k' _)

/-- Every one of the keys is the oracle's choice for some answer (R244: nothing fixes which). -/
theorem pickKey_surjective (k : Key) (ks : List Key) {q : Key} (hq : q ∈ k :: ks) : ∃ place, pickKey k ks place = q := by
  induction ks generalizing k with
  | nil => exact ⟨0, (List.mem_singleton.1 hq).symm⟩
  | cons k' ks ih =>
    rcases List.mem_cons.1 hq with rfl | hq
    · exact ⟨0, by simp [pickKey]⟩
    · obtain ⟨p, hp⟩ := ih k' hq
      exact ⟨p + 1, by simpa [pickKey] using hp⟩

/-! ## Pixels (R34) -/

/-- A flip changes its own pixel and no other. -/
theorem pix_flipPix (d : BitVec 2048) {xx yy px py : Nat} (hx : xx < 64) (hpx : px < 64) (hpy : py < 32) :
    pix (flipPix d xx yy) px py = (pix d px py ^^ decide (px = xx ∧ py = yy)) := by
  have h : decide (py * 64 + px = yy * 64 + xx) = decide (px = xx ∧ py = yy) := decide_eq_decide.2 (by omega)
  have hlt : py * 64 + px < 2048 := by omega
  simp only [pix, flipPix, pixIndex, BitVec.getLsbD_xor, ← h]
  simp [hlt]

@[simp] theorem flagByte_toNat (c : Bool) : (flagByte c).toNat = if c then 1 else 0 := by cases c <;> rfl

end Sys2Proof.Machine
end

