-- ==== Sys2Proof/Laws/PerInstr.lean ====
section
/-! SUPPORT. The per-instruction family EncodedRow: the word of an instruction selects its own row of R86. -/

namespace Sys2Proof.Laws.EncodedRow

/-- R86: the word an instruction is encoded as selects the row the instruction stands in. -/
def Statement (i : Instr) : Prop := encode i &&& i.row.mask = i.row.pat

theorem cls : Statement .cls := rfl
theorem ret : Statement .ret := rfl
theorem sys (nnn : Imm12) : Statement (.sys nnn) := (and_F000 _ _).2 (by simp [encode, Instr.row])
theorem jp (nnn : Imm12) : Statement (.jp nnn) := (and_F000 _ _).2 (by simp [encode, Instr.row])
theorem call (nnn : Imm12) : Statement (.call nnn) := (and_F000 _ _).2 (by simp [encode, Instr.row])
theorem ldI (nnn : Imm12) : Statement (.ldI nnn) := (and_F000 _ _).2 (by simp [encode, Instr.row])
theorem jpV0 (nnn : Imm12) : Statement (.jpV0 nnn) := (and_F000 _ _).2 (by simp [encode, Instr.row])
theorem seImm (x : Reg) (nn : Byte) : Statement (.seImm x nn) := (and_F000 _ _).2 (by simp [encode, Instr.row])
theorem sneImm (x : Reg) (nn : Byte) : Statement (.sneImm x nn) := (and_F000 _ _).2 (by simp [encode, Instr.row])
theorem ldImm (x : Reg) (nn : Byte) : Statement (.ldImm x nn) := (and_F000 _ _).2 (by simp [encode, Instr.row])
theorem addImm (x : Reg) (nn : Byte) : Statement (.addImm x nn) := (and_F000 _ _).2 (by simp [encode, Instr.row])
theorem rnd (x : Reg) (nn : Byte) : Statement (.rnd x nn) := (and_F000 _ _).2 (by simp [encode, Instr.row])
theorem seReg (x y : Reg) : Statement (.seReg x y) := (and_F00F _ _).2 (by simp [encode, Instr.row])
theorem ldReg (x y : Reg) : Statement (.ldReg x y) := (and_F00F _ _).2 (by simp [encode, Instr.row])
theorem orReg (x y : Reg) : Statement (.orReg x y) := (and_F00F _ _).2 (by simp [encode, Instr.row])
theorem andReg (x y : Reg) : Statement (.andReg x y) := (and_F00F _ _).2 (by simp [encode, Instr.row])
theorem xorReg (x y : Reg) : Statement (.xorReg x y) := (and_F00F _ _).2 (by simp [encode, Instr.row])
theorem addReg (x y : Reg) : Statement (.addReg x y) := (and_F00F _ _).2 (by simp [encode, Instr.row])
theorem sub (x y : Reg) : Statement (.sub x y) := (and_F00F _ _).2 (by simp [encode, Instr.row])
theorem shr (x y : Reg) : Statement (.shr x y) := (and_F00F _ _).2 (by simp [encode, Instr.row])
theorem subn (x y : Reg) : Statement (.subn x y) := (and_F00F _ _).2 (by simp [encode, Instr.row])
theorem shl (x y : Reg) : Statement (.shl x y) := (and_F00F _ _).2 (by simp [encode, Instr.row])
theorem sneReg (x y : Reg) : Statement (.sneReg x y) := (and_F00F _ _).2 (by simp [encode, Instr.row])
theorem drw (x y : Reg) (n : Fin 16) : Statement (.drw x y n) := (and_F000 _ _).2 (by simp [encode, Instr.row])
theorem skp (x : Reg) : Statement (.skp x) := (and_F0FF _ _).2 (by simp [encode, Instr.row])
theorem sknp (x : Reg) : Statement (.sknp x) := (and_F0FF _ _).2 (by simp [encode, Instr.row])
theorem ldVxDt (x : Reg) : Statement (.ldVxDt x) := (and_F0FF _ _).2 (by simp [encode, Instr.row])
theorem ldVxK (x : Reg) : Statement (.ldVxK x) := (and_F0FF _ _).2 (by simp [encode, Instr.row])
theorem ldDtVx (x : Reg) : Statement (.ldDtVx x) := (and_F0FF _ _).2 (by simp [encode, Instr.row])
theorem ldStVx (x : Reg) : Statement (.ldStVx x) := (and_F0FF _ _).2 (by simp [encode, Instr.row])
theorem addI (x : Reg) : Statement (.addI x) := (and_F0FF _ _).2 (by simp [encode, Instr.row])
theorem ldF (x : Reg) : Statement (.ldF x) := (and_F0FF _ _).2 (by simp [encode, Instr.row])
theorem ldB (x : Reg) : Statement (.ldB x) := (and_F0FF _ _).2 (by simp [encode, Instr.row])
theorem storeRegs (x : Reg) : Statement (.storeRegs x) := (and_F0FF _ _).2 (by simp [encode, Instr.row])
theorem loadRegs (x : Reg) : Statement (.loadRegs x) := (and_F0FF _ _).2 (by simp [encode, Instr.row])

end Sys2Proof.Laws.EncodedRow
end

