-- ==== Sys2Proof/Laws/Step.lean ====
section
/-! SUPPORT. Everything a step can do, said once (R90-R96). -/

namespace Sys2Proof.Machine

/-- A machine is active exactly when it is running and not paused (R96). -/
theorem active_iff (s : State) : s.active = true ↔ s.status = .running ∧ s.paused = false := by
  simp [State.active]

/-- A fetch finds a word exactly when `pc ≤ 0xFFE`, and the word is the two bytes at `pc` (R61, R91). -/
theorem fetch_eq_some (s : State) (w : Word) : s.fetch = some w ↔
    s.pc.toNat ≤ 0xFFE ∧ w = wordOfBytes (s.readMem s.pc.toNat) (s.readMem (s.pc.toNat + 1)) := by
  unfold State.fetch
  split
  · next h => simp; omega
  · next h => simp only [Option.some.injEq]; exact ⟨fun e => ⟨by omega, e.symm⟩, fun e => e.2.symm⟩

/-- A fetch finds nothing exactly when `pc > 0xFFE` (R91). -/
theorem fetch_eq_none (s : State) : s.fetch = none ↔ s.pc.toNat > 0xFFE := by
  unfold State.fetch
  split <;> simp_all

/-- A step of a halted or paused machine (R96). -/
theorem step_of_inactive {s : State} (h : s.active = false) : step s = .next s := by simp [step, h, execInactive]

/-- A step that fetches nothing (R91). -/
theorem step_of_overrun {s : State} (h : s.active = true) (hf : s.fetch = none) : step s = .next (s.raise .overrun) := by
  simp [step, h, hf, execOverrun, State.commit]

/-- A step that fetches a word (R94). -/
theorem step_of_fetch {s : State} {w : Word} (h : s.active = true) (hf : s.fetch = some w) :
    step s = execDecoded (decode w) s := by simp [step, h, hf]

/-- Everything a step can do: nothing (R96), overrun (R91), an instruction (R94), a silent no-op (R88), a counted no-op
(R89). -/
theorem step_cases {s t : State} (h : step s = .next t) :
    (s.active = false ∧ t = s) ∨
    (s.active = true ∧ s.fetch = none ∧ t = s.raise .overrun) ∨
    ∃ w, s.active = true ∧ s.fetch = some w ∧
      ((∃ i, decode w = .instr i ∧ exec i s = .next t) ∨
       (decode w = .unrecognized w ∧ t = s.advance) ∨
       (decode w = .malformed w ∧ t = s.advance.countMalformed)) := by
  by_cases ha : s.active = true
  · right
    cases hf : s.fetch with
    | none => rw [step_of_overrun ha hf] at h; exact .inl ⟨ha, rfl, by injection h with h; exact h.symm⟩
    | some w =>
      rw [step_of_fetch ha hf] at h
      refine .inr ⟨w, ha, rfl, ?_⟩
      cases hd : decode w with
      | instr i => exact .inl ⟨i, rfl, by rwa [hd] at h⟩
      | unrecognized w' =>
        rw [hd] at h; injection h with h
        have : w' = w := by
          revert hd; simp only [decode, decodeGroup0, decodeGroup5, decodeGroup8, decodeGroup9, decodeGroupE, decodeGroupF]
          intro hd; repeat' split at hd
          all_goals first | cases hd; rfl | cases hd
        subst this; exact .inr (.inl ⟨rfl, h.symm⟩)
      | malformed w' =>
        rw [hd] at h; injection h with h
        have : w' = w := by
          revert hd; simp only [decode, decodeGroup0, decodeGroup5, decodeGroup8, decodeGroup9, decodeGroupE, decodeGroupF]
          intro hd; repeat' split at hd
          all_goals first | cases hd; rfl | cases hd
        subst this; exact .inr (.inr ⟨rfl, h.symm⟩)
  · have ha : s.active = false := by simpa using ha
    rw [step_of_inactive ha] at h
    exact .inl ⟨ha, by injection h with h; exact h.symm⟩

end Sys2Proof.Machine
end

