-- ==== Sys2Proof/Tests/Slice0.lean ====
section
/-! SUPPORT. Tests. Every expected value is taken from spec/95_test_vectors.md, from an "Example" or "Corner cases" line of a
rule, or worked out by hand from the encoding table of R86; none is the model's own answer. Then the witnesses: for each
statement with hypotheses, a concrete state and operands that meet them together. -/

namespace Sys2Proof.Tests

open Sys2Proof.Machine

/-! ## WellFormed: the one check (R87) refuses its two ill-formed terms -/

theorem test_sys_cls_word_ill_formed : (Instr.sys 0x0E0).wellFormed = false := by decide
theorem test_sys_ret_word_ill_formed : (Instr.sys 0x0EE).wellFormed = false := by decide
theorem test_sys_other_well_formed : (Instr.sys 0x0E1).wellFormed = true := by decide

/-! ## Decoding: words written out bit by bit from R82 and R86 -/

theorem test_decode_flow :
    decode 0b0000000011101110 = .instr .ret ∧ decode 0b0000000100100011 = .instr (.sys 0x123) ∧
    decode 0b0001101010111100 = .instr (.jp 0xABC) ∧ decode 0b0010001100000000 = .instr (.call 0x300) ∧
    decode 0b0011001101000010 = .instr (.seImm 3 0x42) ∧ decode 0b0100001101000010 = .instr (.sneImm 3 0x42) ∧
    decode 0b0101000100100000 = .instr (.seReg 1 2) ∧ decode 0b1001000100100000 = .instr (.sneReg 1 2) ∧
    decode 0b1011001100000000 = .instr (.jpV0 0x300) := by decide

theorem test_decode_alu :
    decode 0b0110101000101111 = .instr (.ldImm 0xA 0x2F) ∧ decode 0b0111000100000001 = .instr (.addImm 1 1) ∧
    decode 0b1000000100100000 = .instr (.ldReg 1 2) ∧ decode 0b1000000100100001 = .instr (.orReg 1 2) ∧
    decode 0b1000000100100010 = .instr (.andReg 1 2) ∧ decode 0b1000000100100011 = .instr (.xorReg 1 2) ∧
    decode 0b1000000100100100 = .instr (.addReg 1 2) ∧ decode 0b1000000100100101 = .instr (.sub 1 2) ∧
    decode 0b1000000100010110 = .instr (.shr 1 1) ∧ decode 0b1000000100100111 = .instr (.subn 1 2) ∧
    decode 0b1000000100011110 = .instr (.shl 1 1) ∧ decode 0b1100001100001111 = .instr (.rnd 3 0x0F) := by decide

theorem test_decode_index_memory :
    decode 0b1010001011110000 = .instr (.ldI 0x2F0) ∧ decode 0b1111001000011110 = .instr (.addI 2) ∧
    decode 0b1111001000101001 = .instr (.ldF 2) ∧ decode 0b1111000000110011 = .instr (.ldB 0) ∧
    decode 0b1111000101010101 = .instr (.storeRegs 1) ∧ decode 0b1111001001100101 = .instr (.loadRegs 2) := by decide

theorem test_decode_display :
    decode 0b0000000011100000 = .instr .cls ∧ decode 0b1101000000010101 = .instr (.drw 0 1 5) := by decide

theorem test_decode_keypad_timers :
    decode 0b1110000110011110 = .instr (.skp 1) ∧ decode 0b1110000110100001 = .instr (.sknp 1) ∧
    decode 0b1111010100000111 = .instr (.ldVxDt 5) ∧ decode 0b1111001100001010 = .instr (.ldVxK 3) ∧
    decode 0b1111010100010101 = .instr (.ldDtVx 5) ∧ decode 0b1111000000011000 = .instr (.ldStVx 0) := by decide

/-- 95_test_vectors.md 2.1: reserved words, and the exact match of 00E0. -/
theorem test_decode_reserved :
    decode 0x00E1 = .instr (.sys 0x0E1) ∧ decode 0x10E0 = .instr (.jp 0x0E0) ∧ decode 0x5121 = .malformed 0x5121 ∧
    decode 0x9121 = .unrecognized 0x9121 ∧ decode 0x8128 = .unrecognized 0x8128 ∧ decode 0x812F = .unrecognized 0x812F ∧
    decode 0xE19F = .unrecognized 0xE19F ∧ decode 0xF175 = .unrecognized 0xF175 ∧
    decode 0xFFFF = .unrecognized 0xFFFF := by decide

/-- R99: `ADD V3, V5` is 0x8354 and `DRW V0, V1, 5` is 0xD015; R61: the high byte stands first. -/
theorem test_encode :
    encode (.addReg 3 5) = 0x8354 ∧ encodeBytes (.drw 0 1 5) = [0xD0, 0x15] ∧
    decodeBytes [0xAB, 0xCD, 0x12] = .word (.instr (.ldI 0xBCD)) [0x12] ∧ decodeBytes [0xAB] = .tooShort := by decide

theorem test_decodeTableWord : decodeTableWord 16 0xABCD = some (.ldI 0xBCD) ∧ decodeTableWord 16 0x5121 = none := by decide

/-! ## One step of small machines -/

/-- The machine after reset, running the word `w` next. -/
def at200 (w : Nat) : State := State.reset.withFetchWord 16 w

/-- The machine after reset with registers set, running the word `w` next. -/
def withV (rs : List (Reg × Byte)) (w : Nat) : State := rs.foldl (fun s r => s.writeV r.1 r.2) (at200 w)

/-- 95_test_vectors.md 2.2. -/
theorem test_ret :
    (stepState { at200 0x00EE with stack := [0x202, 0x208] }).pc = 0x208 ∧
    (stepState { at200 0x00EE with stack := [0x202, 0x208] }).stack = [0x202] := by decide
theorem test_ret_underflow :
    (stepState (at200 0x00EE)).status = .halted .stackUnderflow ∧ (stepState (at200 0x00EE)).pc = 0x200 := by decide
theorem test_sys : (stepState (at200 0x0123)).pc = 0x202 := by decide
theorem test_jp : (stepState (at200 0x1ABC)).pc = 0xABC := by decide
theorem test_call : (stepState (at200 0x2300)).pc = 0x300 ∧ (stepState (at200 0x2300)).stack = [0x202] := by decide
theorem test_call_overflow :
    (stepState { at200 0x2400 with stack := List.replicate 16 0x202 }).status = .halted .stackOverflow ∧
    stepReport { at200 0x2400 with stack := List.replicate 16 0x202 } = .fault .stackOverflow 0x200 := by decide
theorem test_seImm : (stepState (withV [(3, 0x42)] 0x3342)).pc = 0x204 ∧ (stepState (withV [(3, 0x41)] 0x3342)).pc = 0x202 := by
  decide
theorem test_sneImm : (stepState (withV [(3, 0x41)] 0x4342)).pc = 0x204 ∧ (stepState (withV [(3, 0x42)] 0x4342)).pc = 0x202 := by
  decide
theorem test_seReg : (stepState (withV [(1, 7), (2, 7)] 0x5120)).pc = 0x204 ∧
    (stepState (withV [(1, 7), (2, 8)] 0x5120)).pc = 0x202 := by decide
theorem test_sneReg : (stepState (withV [(1, 7), (2, 8)] 0x9120)).pc = 0x204 ∧
    (stepState (withV [(1, 7), (2, 7)] 0x9120)).pc = 0x202 := by decide
theorem test_jpV0 : (stepState (withV [(0, 0xFF)] 0xBFFF)).pc = 0x10FE := by decide

/-- 95_test_vectors.md 2.3. -/
theorem test_ldImm : (stepState (at200 0x60AB)).readV 0 = 0xAB := by decide
theorem test_addImm_wraps : (stepState (withV [(1, 0xFF), (15, 0xAA)] 0x7101)).readV 1 = 0 ∧
    (stepState (withV [(1, 0xFF), (15, 0xAA)] 0x7101)).readV 15 = 0xAA := by decide
theorem test_ldReg : (stepState (withV [(1, 0x5A)] 0x8010)).readV 0 = 0x5A := by decide
theorem test_orReg_into_VF : (stepState (withV [(15, 0xF0), (1, 0x0F)] 0x8F11)).readV 15 = 0xFF := by decide
theorem test_andReg : (stepState (withV [(0, 0xF0), (1, 0x3C)] 0x8012)).readV 0 = 0x30 := by decide
theorem test_xorReg : (stepState (withV [(0, 0xFF), (1, 0x0F)] 0x8013)).readV 0 = 0xF0 := by decide
theorem test_addReg_carry : (stepState (withV [(0, 0xFF), (1, 0xFF)] 0x8014)).readV 0 = 0xFE ∧
    (stepState (withV [(0, 0xFF), (1, 0xFF)] 0x8014)).readV 15 = 1 := by decide
theorem test_addReg_flag_wins : (stepState (withV [(15, 0x01), (1, 0x01)] 0x8F14)).readV 15 = 0 := by decide
theorem test_sub_borrow : (stepState (withV [(0, 3), (1, 5)] 0x8015)).readV 0 = 0xFE ∧
    (stepState (withV [(0, 3), (1, 5)] 0x8015)).readV 15 = 0 := by decide
theorem test_sub_equal : (stepState (withV [(0, 7), (1, 7)] 0x8015)).readV 15 = 1 := by decide
theorem test_shr : (stepState (withV [(0, 0x81)] 0x8016)).readV 0 = 0x40 ∧
    (stepState (withV [(0, 0x81)] 0x8016)).readV 15 = 1 := by decide
theorem test_shr_uses_Vy :
    (stepState { withV [(1, 0x81)] 0x8016 with cfg := { defaultConfig with shiftUsesVy := true } }).readV 0 = 0x40 := by decide
theorem test_subn : (stepState (withV [(0, 5), (1, 3)] 0x8017)).readV 0 = 0xFE ∧
    (stepState (withV [(0, 5), (1, 3)] 0x8017)).readV 15 = 0 := by decide
theorem test_shl : (stepState (withV [(0, 0x81)] 0x801E)).readV 0 = 0x02 ∧
    (stepState (withV [(0, 0x81)] 0x801E)).readV 15 = 1 := by decide
/-- 95_test_vectors.md 2.3: `C000` gives 0 for every draw. -/
theorem test_rnd_zero_mask : (stepState (withV [(0, 0x55)] 0xC000)).readV 0 = 0 := by
  have h : (stepState (withV [(0, 0x55)] 0xC000)).readV 0 = Config.freeByte 0 &&& 0 := rfl
  simpa using h

/-- 95_test_vectors.md 2.4. -/
theorem test_ldI : (stepState { at200 0xA2F0 with index := 0xFFFF }).index = 0x02F0 := by decide
theorem test_addI_unmasked : (stepState { withV [(2, 1)] 0xF21E with index := 0x0FFF }).index = 0x1000 := by decide
theorem test_addI_wraps : (stepState { withV [(2, 1)] 0xF21E with index := 0xFFFF }).index = 0 := by decide
theorem test_ldF : (stepState (withV [(2, 0xFF)] 0xF229)).index = 0x04FB := by decide
theorem test_ldB_wraps :
    (stepState { withV [(0, 123)] 0xF033 with index := 0xFFE }).readMem 0xFFE = 1 ∧
    (stepState { withV [(0, 123)] 0xF033 with index := 0xFFE }).readMem 0xFFF = 2 ∧
    (stepState { withV [(0, 123)] 0xF033 with index := 0xFFE }).readMem 0x000 = 3 := by decide
theorem test_storeRegs_wraps :
    (stepState { withV [(0, 0xAA), (1, 0xBB)] 0xF155 with index := 0xFFF }).readMem 0xFFF = 0xAA ∧
    (stepState { withV [(0, 0xAA), (1, 0xBB)] 0xF155 with index := 0xFFF }).readMem 0x000 = 0xBB := by decide
theorem test_storeRegs_increments_I :
    (stepState { at200 0xFF55 with index := 0x400, cfg := { defaultConfig with blockIncrementsI := true } }).index = 0x410 := by
  decide
theorem test_loadRegs_font : (stepState (at200 0xF065)).readV 0 = 0xF0 := by decide
theorem test_loadRegs_above_x_kept : (stepState (withV [(3, 0x77)] 0xF265)).readV 3 = 0x77 := by decide

/-- 95_test_vectors.md 2.5: a lit pixel, and both wraps. -/
theorem test_cls : (stepState { at200 0x00E0 with disp := 5 }).disp = 0 := rfl
theorem test_drw_wraps :
    pix (stepState ({ withV [(0, 63), (1, 31)] 0xD011 with index := 0x300 }.writeMem 0x300 0xC0)).disp 63 31 = true ∧
    pix (stepState ({ withV [(0, 63), (1, 31)] 0xD011 with index := 0x300 }.writeMem 0x300 0xC0)).disp 0 31 = true := by
  decide +kernel
theorem test_drw_collision :
    (stepState ({ at200 0xD012 with index := 0x300, disp := 1 }.writeMem 0x300 0x80)).readV 15 = 1 ∧
    (stepState ({ at200 0xD010 with index := 0x300, disp := 1 }.writeMem 0x300 0x80)).readV 15 = 0 := by decide +kernel

/-- 95_test_vectors.md 2.6. -/
theorem test_skp : (stepState (press 5 (withV [(1, 5)] 0xE19E))).pc = 0x204 ∧
    (stepState (press 5 (withV [(1, 0x15)] 0xE19E))).pc = 0x202 := by decide
theorem test_sknp : (stepState (press 5 (withV [(1, 5)] 0xE1A1))).pc = 0x202 ∧
    (stepState (press 5 (withV [(1, 0x15)] 0xE1A1))).pc = 0x204 := by decide
theorem test_ldVxK_waits : step (at200 0xF30A) = .next (at200 0xF30A) := rfl
theorem test_ldVxK_takes : (stepState (press 7 (at200 0xF30A))).readV 3 = 7 ∧ (stepState (press 7 (at200 0xF30A))).pc = 0x202 ∧
    (stepState (press 7 (at200 0xF30A))).heldKeys = [] := by decide
theorem test_ldVxDt : (stepState { at200 0xF507 with dt := 0x3C }).readV 5 = 0x3C := by decide
theorem test_ldDtVx : (stepState (withV [(5, 0x3C)] 0xF515)).dt = 0x3C := by decide
theorem test_ldStVx : (stepState (withV [(0, 5)] 0xF018)).st = 5 := by decide
theorem test_decrementTimers : (decrementTimers { State.reset with dt := 1, st := 255 }).dt = 0 ∧
    (decrementTimers { State.reset with dt := 1, st := 255 }).st = 254 ∧
    (decrementTimers { State.reset with dt := 5, status := .halted .stackOverflow }).dt = 5 := by decide
theorem test_press_release : (press 16 State.reset).heldKeys = [] ∧ (release 0x20 (press 15 State.reset)).heldKeys = [15] := by
  decide

/-- 95_test_vectors.md 2.1: the pipeline's corners. -/
theorem test_overrun : (stepState { State.reset with pc := 0xFFF }).status = .halted .overrun ∧
    stepReport { State.reset with pc := 0xFFF } = .fault .overrun 0xFFF := by decide
theorem test_odd_pc : (stepState ({ State.reset with pc := 0x201 }.withFetchWord 16 0x6A05)).pc = 0x203 ∧
    (stepState ({ State.reset with pc := 0x201 }.withFetchWord 16 0x6A05)).readV 0xA = 5 := by decide
theorem test_malformed : stepReport (at200 0x5121) = .malformed 0x5121 0x200 ∧
    (stepState (at200 0x5121)).malformedCount = 1 ∧ (stepState (at200 0x5121)).pc = 0x202 := by decide
theorem test_unrecognized : stepReport (at200 0x9121) = .ok ∧ (stepState (at200 0x9121)).pc = 0x202 := by decide
theorem test_codes : (Report.fault .overrun 0).code = 2 ∧ (Report.malformed 0 0).code = 1 ∧ Report.romNotFound.code = 17 := by
  decide

/-- 95_test_vectors.md S3, S4 and 2.7. -/
theorem test_font : (List.range 5).map (fun k => State.reset.readMem (75 + k)) = [0xF0, 0x80, 0xF0, 0x80, 0x80] := by decide
theorem test_load_then_fetch : (loadRom (some [0xAB, 0xCD]) State.reset).1.fetch = some 0xABCD := by decide
theorem test_romSwitch :
    (romSwitch (some [0x12, 0x00]) { State.reset with paused := true, status := .halted .overrun }).1.status = .running ∧
    (romSwitch (some [0x12, 0x00]) { State.reset with paused := true, status := .halted .overrun }).1.paused = false := by
  decide
theorem test_tick_paused : tick { State.reset with paused := true, dt := 5 } = ({ State.reset with paused := true, dt := 5 }, []) :=
  rfl

/-- The default parameters (R9). -/
theorem test_default_parameters : defaultConfig.stackDepth = 16 ∧ defaultConfig.stepsPerTick = 10 ∧
    defaultConfig.shiftUsesVy = false ∧ defaultConfig.blockIncrementsI = false ∧ defaultConfig.fx0aRemovesKey = true ∧
    defaultConfig.wellFormed := by decide

/-! ## Witnesses: each statement's hypotheses are met together -/

theorem witness_EncodeThenDecode : (Instr.sys 0x123).wellFormed = true := by decide
theorem witness_DecodeThenEncode : decode 0x8354 = .instr (.addReg 3 5) := by decide
theorem witness_StepRunsDecodedInstruction : (at200 0x6A2F).status = .running ∧ (at200 0x6A2F).paused = false ∧
    (at200 0x6A2F).pc.toNat ≤ 0xFFE ∧
    decode ((at200 0x6A2F).readMem (at200 0x6A2F).pc.toNat ++ (at200 0x6A2F).readMem ((at200 0x6A2F).pc.toNat + 1)) =
      .instr (.ldImm 0xA 0x2F) := by decide
theorem witness_InactiveStepChangesNothing : { State.reset with paused := true }.paused = true ∧
    { State.reset with status := .halted .overrun }.status ≠ .running := by decide
theorem witness_OverrunOnlyAtFetch_over : { State.reset with pc := 0xFFF }.status = .running ∧
    { State.reset with pc := 0xFFF }.paused = false ∧ { State.reset with pc := 0xFFF }.pc.toNat > 0xFFE := by decide
theorem witness_OverrunOnlyAtFetch_top : { State.reset with pc := 0xFFE }.status = .running ∧
    { State.reset with pc := 0xFFE }.paused = false ∧ { State.reset with pc := 0xFFE }.pc.toNat ≤ 0xFFE ∧
    step { State.reset with pc := 0xFFE } = .next { State.reset with pc := 0x1000 } := ⟨rfl, rfl, by decide, rfl⟩
theorem witness_TerminalConditionIsPrecise : (at200 0x00EE).status = .running ∧
    step (at200 0x00EE) = .next ((at200 0x00EE).raise .stackUnderflow) ∧
    ((at200 0x00EE).raise .stackUnderflow).status = .halted .stackUnderflow := ⟨rfl, rfl, rfl⟩
theorem witness_StepReportsExactlyTheseConditions : State.reset.status = .running ∧ State.reset.paused = false := by decide
theorem witness_UnrecognizedWordIsSilentNoOp : (at200 0x812F).status = .running ∧ (at200 0x812F).paused = false ∧
    (at200 0x812F).fetch = some 0x812F ∧ fieldOp 0x812F = 8 ∧ fieldN 0x812F = 0xF := by decide
theorem witness_UnrecognizedWordIsSilentNoOp_9 : (at200 0x9121).fetch = some 0x9121 ∧ fieldOp 0x9121 = 9 ∧
    fieldN 0x9121 ≠ 0 := by decide
theorem witness_UnrecognizedWordIsSilentNoOp_E : (at200 0xE19F).fetch = some 0xE19F ∧ fieldOp 0xE19F = 0xE ∧
    fieldNN 0xE19F ∉ [0x9E#8, 0xA1#8] := by decide
theorem witness_UnrecognizedWordIsSilentNoOp_F : (at200 0xFFFF).fetch = some 0xFFFF ∧ fieldOp 0xFFFF = 0xF ∧
    fieldNN 0xFFFF ∉ [0x07#8, 0x0A#8, 0x15#8, 0x18#8, 0x1E#8, 0x29#8, 0x33#8, 0x55#8, 0x65#8] := by decide
theorem witness_MalformedWordIsCountedNoOp : (at200 0x5121).status = .running ∧ (at200 0x5121).paused = false ∧
    (at200 0x5121).fetch = some 0x5121 ∧ fieldOp 0x5121 = 5 ∧ fieldN 0x5121 ≠ 0 := by decide
theorem witness_StepKeepsLegalMachine : State.reset.Inv ∧ step State.reset = .next State.reset.advance :=
  ⟨{ memWf := Mem.nil_wf _, stackBound := by decide, returnBound := by simp [State.reset, newMachine], pcBound := by decide },
    rfl⟩
theorem witness_EveryRunKeepsLegalMachine : State.reset.Inv := witness_StepKeepsLegalMachine.1
theorem witness_HaltedMachineStaysHalted : (State.reset.raise .overrun).status = .halted .overrun ∧
    (applyEvent (.romSwitch (some [])) (State.reset.raise .overrun)).1.status ≠ .halted .overrun := by decide
theorem witness_SysIsNoOp : (0x0FFF : Word) &&& 0xF000 = 0x0000 ∧ (0x0FFF : Word) ≠ 0x00E0 ∧ (0x0FFF : Word) ≠ 0x00EE := by
  decide
theorem witness_ReturnPopsOrUnderflows : { State.reset with stack := [0x202] }.stack = [] ++ [0x202] ∧ State.reset.stack = [] := by
  decide
theorem witness_CallPushesOrOverflows : (List.replicate 15 (0x202 : Word)).length ≠ State.reset.cfg.stackDepth ∧
    (List.replicate 16 (0x202 : Word)).length = State.reset.cfg.stackDepth := by decide
theorem witness_ReturnUndoesCall : State.reset.stack.length ≠ State.reset.cfg.stackDepth ∧
    exec (.call 0x300) State.reset = .next { State.reset with pc := 0x300, stack := [0x202] } ∧
    exec .ret { State.reset with pc := 0x300, stack := [0x202] } = .next { State.reset with pc := 0x202 } :=
  ⟨by decide, rfl, rfl⟩
theorem witness_masks_F000 : (0x1FFF : Word) &&& 0xF000 = 0x1000 ∧ (0x2000 : Word) &&& 0xF000 = 0x2000 ∧
    (0x3F00 : Word) &&& 0xF000 = 0x3000 ∧ (0x40FF : Word) &&& 0xF000 = 0x4000 ∧ (0x6FFF : Word) &&& 0xF000 = 0x6000 ∧
    (0x7000 : Word) &&& 0xF000 = 0x7000 ∧ (0xAFFF : Word) &&& 0xF000 = 0xA000 ∧ (0xB000 : Word) &&& 0xF000 = 0xB000 ∧
    (0xCFFF : Word) &&& 0xF000 = 0xC000 ∧ (0xD000 : Word) &&& 0xF000 = 0xD000 := by decide
theorem witness_masks_F00F : (0x5FF0 : Word) &&& 0xF00F = 0x5000 ∧ (0x9000 : Word) &&& 0xF00F = 0x9000 ∧
    (0x8FF0 : Word) &&& 0xF00F = 0x8000 ∧ (0x8FF1 : Word) &&& 0xF00F = 0x8001 ∧ (0x8FF2 : Word) &&& 0xF00F = 0x8002 ∧
    (0x8FF3 : Word) &&& 0xF00F = 0x8003 ∧ (0x8FF4 : Word) &&& 0xF00F = 0x8004 ∧ (0x8FF5 : Word) &&& 0xF00F = 0x8005 ∧
    (0x8FF6 : Word) &&& 0xF00F = 0x8006 ∧ (0x8FF7 : Word) &&& 0xF00F = 0x8007 ∧ (0x8FFE : Word) &&& 0xF00F = 0x800E ∧
    fieldOp 0x500F = 5 ∧ fieldN 0x500F ≠ 0 ∧ fieldOp 0x9001 = 9 ∧ fieldN 0x9001 ≠ 0 := by decide
theorem witness_masks_F0FF : (0xEF9E : Word) &&& 0xF0FF = 0xE09E ∧ (0xE0A1 : Word) &&& 0xF0FF = 0xE0A1 ∧
    (0xFF07 : Word) &&& 0xF0FF = 0xF007 ∧ (0xFF0A : Word) &&& 0xF0FF = 0xF00A ∧ (0xFF15 : Word) &&& 0xF0FF = 0xF015 ∧
    (0xFF18 : Word) &&& 0xF0FF = 0xF018 ∧ (0xFF1E : Word) &&& 0xF0FF = 0xF01E ∧ (0xFF29 : Word) &&& 0xF0FF = 0xF029 ∧
    (0xFF33 : Word) &&& 0xF0FF = 0xF033 ∧ (0xFF55 : Word) &&& 0xF0FF = 0xF055 ∧ (0xFF65 : Word) &&& 0xF0FF = 0xF065 := by
  decide
theorem witness_ShiftWithDroppedBit : (0x81 : Byte) =
    if { withV [(0, 0x81)] 0 with pc := 0 }.cfg.shiftUsesVy then (withV [(0, 0x81)] 0).v[1] else (withV [(0, 0x81)] 0).v[0] := by
  decide
/-- P5: the block store at 0x206 writes the word at 0x208, where it leaves `pc`. -/
theorem witness_StoredWordIsFetched_block : exec (.storeRegs 1) { State.reset with pc := 0x206, index := 0x208 } =
      .next (({ State.reset with pc := 0x208, index := 0x208 }.storeBlock 1).blockIndex 1) ∧
    (0 : Reg).val + 1 = (1 : Reg).val ∧ (0x208 : Word).toNat ≤ 0xFFE ∧ (0x208 : Word).toNat = (0x208 + 0) % 4096 :=
  ⟨rfl, rfl, by decide, by decide⟩
theorem witness_StoredWordIsFetched_digits : ∃ t, exec (.ldB 0) { State.reset with pc := 0xFFC, index := 0xFFE } = .next t ∧
    t.pc.toNat ≤ 0xFFE ∧ t.pc.toNat = (0xFFE : Word).toNat % 4096 := ⟨_, rfl, by decide, by decide⟩
theorem witness_StoredWordIsFetched_digits_odd : ∃ t, exec (.ldB 0) { State.reset with pc := 0x206, index := 0x207 } = .next t ∧
    t.pc.toNat ≤ 0xFFE ∧ t.pc.toNat = ((0x207 : Word).toNat + 1) % 4096 := ⟨_, rfl, by decide, by decide⟩
/-- Glyph 0 drawn at (0, 0) by DRW V0, V1, 5, and drawn again. -/
theorem witness_SpriteDrawnTwiceRestores : ∃ t u, exec (.drw 0 1 5) State.reset = .next t ∧
    t.v[(0 : Reg)] = State.reset.v[(0 : Reg)] ∧ t.v[(1 : Reg)] = State.reset.v[(1 : Reg)] ∧ exec (.drw 0 1 5) t = .next u :=
  ⟨_, _, rfl, by decide +kernel, by decide +kernel, rfl⟩
theorem witness_NoCollisionIsUnion : ∃ t, exec (.drw 0 1 5) State.reset = .next t ∧ State.reset.disp = 0 := ⟨_, rfl, rfl⟩
theorem witness_LitPixelsBalance : ∃ t, exec (.drw 0 1 5) State.reset = .next t := ⟨_, rfl⟩
theorem witness_SkipsOnKey : (press 15 (withV [(1, 15)] 0)).keys[(15 : Key)] = true ∧
    (15 : Key).val = (press 15 (withV [(1, 15)] 0)).v[(1 : Reg)].toNat ∧
    (∀ k : Key, State.reset.keys[k] = true → k.val ≠ State.reset.v[(1 : Reg)].toNat) := by decide
theorem witness_KeyWait : (∀ k : Key, State.reset.keys[k] = false) ∧ (press 3 State.reset).keys[(3 : Key)] = true := by decide
theorem witness_OnlyTheseWriteVF : ∃ t, exec (.ldImm 15 1) State.reset = .next t ∧ t.v[15] ≠ State.reset.v[15] :=
  ⟨_, rfl, by decide⟩
theorem witness_DisplayAndMemoryWriters : ∃ t, exec .cls { State.reset with disp := 1 } = .next t ∧
    t.disp ≠ { State.reset with disp := 1 }.disp := ⟨_, rfl, by decide +kernel⟩
theorem witness_DisplayAndMemoryWriters_memory : ∃ t, exec (.ldB 0) State.reset = .next t ∧
    t.readMem 0 ≠ State.reset.readMem 0 := ⟨_, rfl, by decide⟩
theorem witness_SpecialStateWriters_stack : ∃ t, exec (.call 0x300) State.reset = .next t ∧ t.stack ≠ State.reset.stack :=
  ⟨_, rfl, by decide⟩
theorem witness_SpecialStateWriters_timers : ∃ t u, exec (.ldDtVx 1) (withV [(1, 9)] 0) = .next t ∧ t.dt ≠ (withV [(1, 9)] 0).dt ∧
    exec (.ldStVx 1) (withV [(1, 9)] 0) = .next u ∧ u.st ≠ (withV [(1, 9)] 0).st := ⟨_, _, rfl, by decide, rfl, by decide⟩
theorem witness_SpecialStateWriters_status : ∃ t, exec .ret State.reset = .next t ∧ t.status ≠ State.reset.status :=
  ⟨_, rfl, by decide⟩
theorem witness_SpecialStateWriters : ∃ t, exec (.ldI 1) State.reset = .next t ∧ t.index ≠ State.reset.index := ⟨_, rfl, by decide⟩
theorem witness_PcAdvances : ∃ t, exec (.seImm 0 0) State.reset = .next t ∧ t.pc = State.reset.pc + 4 := ⟨_, rfl, by decide⟩
theorem witness_SoundTimerAndCountAreNeverRead : step State.reset = .next State.reset.advance ∧
    step { State.reset with st := 9, malformedCount := 4 } = .next { State.reset.advance with st := 9, malformedCount := 4 } :=
  ⟨rfl, rfl⟩
/-- The ranges of NewMachineState's clauses meet without overlap: 0-4, 5-74, 75-79, 80-4095. -/
theorem witness_NewMachineState : (∃ m, m = newMachine defaultConfig 0) ∧ (69 < 70 ∧ 5 + 69 < 75) ∧ (80 ≤ 80 ∧ 80 < 4096) := by
  exact ⟨⟨_, rfl⟩, by decide, by decide⟩
theorem witness_TimersCountDown : State.reset.status = .running ∧ (State.reset.raise .overrun).status ≠ .running := by decide
theorem witness_KeysAndPauseFromOutside : (-1 : Int) < 0 ∨ (16 : Int) ≤ -1 := by decide
theorem witness_RomLoading_fits : (List.replicate 3584 (0 : Byte)).length ≤ 3584 := by
  rw [List.length_replicate]
theorem witness_RomLoading_tooLarge : (List.replicate 3585 (0 : Byte)).length > 3584 := by
  rw [List.length_replicate]; decide
theorem witness_TickIsStepsThenDecrement : State.reset.status = .running ∧ State.reset.paused = false ∧
    (∀ k < State.reset.cfg.stepsPerTick, (stepReport (stepState^[k] State.reset)).isFault = false) := by decide +kernel
theorem witness_TickIsStepsThenDecrement_fault : (at200 0x00EE).status = .running ∧ (at200 0x00EE).paused = false ∧
    0 < (at200 0x00EE).cfg.stepsPerTick ∧ (stepReport (stepState^[0] (at200 0x00EE))).isFault = true := by decide
theorem witness_PauseStopsTick : { State.reset with paused := true }.paused = true ∧ State.reset.status = .running ∧
    State.reset.paused = false ∧ 10 ≤ State.reset.cfg.stepsPerTick ∧
    (∀ j < 10, (stepReport (stepState^[j] State.reset)).isFault = false) := by decide +kernel
theorem witness_KeyWaitBusyPolls : (at200 0xF30A).status = .running ∧ (at200 0xF30A).paused = false ∧
    (at200 0xF30A).fetch = some 0xF30A ∧ decode 0xF30A = .instr (.ldVxK 3) ∧ (∀ k : Key, (at200 0xF30A).keys[k] = false) := by
  decide

end Sys2Proof.Tests
end

/-! # Proofs: the family 00_scope.md -/

namespace Sys2Proof.Machine

/-! ## Legal machines: one rule per state operation

The invariant reads the parameters, memory, the stack and `pc`; a write to any other field leaves it as it is. -/

namespace State

variable {s t : State}

/-- A machine that agrees with a legal one in the four fields the invariant reads is legal. -/
theorem Inv.of_fields (hs : s.Inv) (hcfg : t.cfg = s.cfg) (hmem : t.mem = s.mem) (hstack : t.stack = s.stack)
    (hpc : t.pc = s.pc) : t.Inv where
  memWf := by rw [hcfg, hmem]; exact hs.memWf
  stackBound := by rw [hcfg, hstack]; exact hs.stackBound
  returnBound := by rw [hstack]; exact hs.returnBound
  pcBound := by rw [hpc]; exact hs.pcBound

theorem inv_congr (hcfg : t.cfg = s.cfg) (hmem : t.mem = s.mem) (hstack : t.stack = s.stack) (hpc : t.pc = s.pc) :
    t.Inv ↔ s.Inv :=
  ⟨fun ht => ht.of_fields hcfg.symm hmem.symm hstack.symm hpc.symm, fun hs => hs.of_fields hcfg hmem hstack hpc⟩

@[simp] theorem inv_writeV (r : Reg) (b : Byte) : (s.writeV r b).Inv ↔ s.Inv := inv_congr rfl rfl rfl rfl
@[simp] theorem inv_writeDataThenFlag (x : Reg) (d f : Byte) : (s.writeDataThenFlag x d f).Inv ↔ s.Inv :=
  inv_congr rfl rfl rfl rfl
@[simp] theorem inv_setIndex (w : Word) : (s.setIndex w).Inv ↔ s.Inv := inv_congr rfl rfl rfl rfl
@[simp] theorem inv_setDt (b : Byte) : (s.setDt b).Inv ↔ s.Inv := inv_congr rfl rfl rfl rfl
@[simp] theorem inv_setSt (b : Byte) : (s.setSt b).Inv ↔ s.Inv := inv_congr rfl rfl rfl rfl
@[simp] theorem inv_setDisp (d : BitVec 2048) : (s.setDisp d).Inv ↔ s.Inv := inv_congr rfl rfl rfl rfl
@[simp] theorem inv_setKey (k : Key) (held : Bool) : (s.setKey k held).Inv ↔ s.Inv := inv_congr rfl rfl rfl rfl
@[simp] theorem inv_nextDraw : s.nextDraw.Inv ↔ s.Inv := inv_congr rfl rfl rfl rfl
@[simp] theorem inv_countMalformed : s.countMalformed.Inv ↔ s.Inv := inv_congr rfl rfl rfl rfl
@[simp] theorem inv_raise (c : Terminal) : (s.raise c).Inv ↔ s.Inv := inv_congr rfl rfl rfl rfl
@[simp] theorem inv_loadBlock (x : Reg) : (s.loadBlock x).Inv ↔ s.Inv := by
  rw [loadBlock_fields]; exact inv_congr rfl rfl rfl rfl
@[simp] theorem inv_blockIndex (x : Reg) : (s.blockIndex x).Inv ↔ s.Inv := by
  rw [blockIndex_eq]; exact inv_congr rfl rfl rfl rfl

@[simp] theorem storeBlock_cfg (x : Reg) : (s.storeBlock x).cfg = s.cfg := by rw [storeBlock_fields]
@[simp] theorem loadBlock_cfg (x : Reg) : (s.loadBlock x).cfg = s.cfg := by rw [loadBlock_fields]
@[simp] theorem blockIndex_cfg (x : Reg) : (s.blockIndex x).cfg = s.cfg := by rw [blockIndex_eq]

/-! Memory: a store keeps the canonical form. -/

theorem Inv.writeMem (hs : s.Inv) (a : Nat) (b : Byte) : (s.writeMem a b).Inv :=
  ⟨writeMem_wf a b hs.memWf, hs.stackBound, hs.returnBound, hs.pcBound⟩

theorem Inv.storeList (hs : s.Inv) (f : Reg → Nat) (g : Reg → Byte) (l : List Reg) :
    (l.foldl (fun t r => t.writeMem (f r) (g r)) s).Inv := by
  induction l generalizing s with
  | nil => exact hs
  | cons r l ih => exact ih (hs.writeMem _ _)

theorem Inv.storeBlock (hs : s.Inv) (x : Reg) : (s.storeBlock x).Inv := hs.storeList _ _ _

/-! `pc`: a fetched instruction stands at 0xFFE or below, so an advance and a skip stay far below the bound. -/

theorem Inv.setPc (hs : s.Inv) {w : Word} (hw : w.toNat ≤ pcMax) : (s.setPc w).Inv :=
  ⟨hs.memWf, hs.stackBound, hs.returnBound, hw⟩

theorem advance_pc_le (hpc : s.pc.toNat ≤ 0xFFE) : s.advance.pc.toNat ≤ returnMax := by
  rw [advance_pc, returnMax]; bv_omega

theorem Inv.advance (hs : s.Inv) (hpc : s.pc.toNat ≤ 0xFFE) : s.advance.Inv :=
  hs.setPc ((advance_pc_le hpc).trans (by decide))

theorem Inv.skipIf (hs : s.Inv) (hpc : s.pc.toNat ≤ returnMax) (c : Bool) : (s.skipIf c).Inv := by
  cases c with
  | false => exact hs
  | true =>
    refine hs.setPc (w := s.pc + 2) ?_
    rw [returnMax] at hpc
    rw [pcMax]; bv_omega

/-- R122, R123: a 12-bit address is below the bound. -/
theorem addrOf_le (nnn : Imm12) : (addrOf nnn).toNat ≤ pcMax := by
  have := nnn.isLt
  simp [addrOf, pcMax]; omega

/-- R128: a 12-bit address plus a byte is at most 0xFFF + 0xFF. -/
theorem addrOf_add_zext16_le (nnn : Imm12) (b : Byte) : (addrOf nnn + zext16 b).toNat ≤ pcMax := by
  have := nnn.isLt
  have := b.isLt
  simp [addrOf, zext16, pcMax]; omega

/-! The stack (R30, R31). -/

/-- A push that did not overflow leaves a legal machine, given a legal return address. -/
theorem Inv.pushed (hs : s.Inv) {a : Word} (ha : a.toNat ≤ returnMax) (hroom : s.stack.length ≠ s.cfg.stackDepth) :
    State.Inv { s with stack := s.stack ++ [a] } where
  memWf := hs.memWf
  stackBound := by
    have := hs.stackBound
    simp only [List.length_append, List.length_singleton]; omega
  returnBound := by
    intro b hb
    rcases List.mem_append.1 hb with hb | hb
    · exact hs.returnBound b hb
    · rw [List.mem_singleton.1 hb]; exact ha
  pcBound := hs.pcBound

/-- A return to the entry it pops leaves a legal machine. -/
theorem Inv.returned (hs : s.Inv) {l : List Word} {a : Word} (hstack : s.stack = l ++ [a]) :
    (State.setPc { s with stack := l } a).Inv where
  memWf := hs.memWf
  stackBound := by
    have := hs.stackBound
    rw [hstack, List.length_append] at this
    exact (Nat.le_add_right _ _).trans this
  returnBound := fun b hb => hs.returnBound b (hstack ▸ List.mem_append_left [a] hb)
  pcBound := (hs.returnBound a (by simp [hstack])).trans (by decide)

end State

/-! ## What every operation keeps -/

/-- `t` is legal and has the parameters of `s` (R9, R39). -/
structure State.LegalAfter (s t : State) : Prop where
  /-- The machine is legal. -/
  inv : t.Inv
  /-- No parameter changed. -/
  cfg_eq : t.cfg = s.cfg

namespace State

variable {s t u : State}

theorem LegalAfter.refl (hs : s.Inv) : s.LegalAfter s := ⟨hs, rfl⟩

theorem LegalAfter.trans (hst : s.LegalAfter t) (htu : t.LegalAfter u) : s.LegalAfter u := ⟨htu.inv, htu.cfg_eq.trans hst.cfg_eq⟩

end State

/-! ### The instructions -/

section StackInstructions

variable {s : State}

/-- R123, R276: CALL on a full stack. -/
theorem exec_call_full (nnn : Imm12) (h : s.stack.length = s.cfg.stackDepth) :
    exec (.call nnn) s = .next (s.raise .stackOverflow) := by
  simp [exec, execCall, State.push_eq, h, Except.map, State.commit]

/-- R123: CALL on a stack with room. -/
theorem exec_call_room (nnn : Imm12) (h : s.stack.length ≠ s.cfg.stackDepth) :
    exec (.call nnn) s = .next (State.setPc { s.advance with stack := s.stack ++ [s.advance.pc] } (addrOf nnn)) := by
  simp [exec, execCall, State.push_eq, h, Except.map, State.commit]

/-- R121, R277: RET on an empty stack. -/
theorem exec_ret_empty (h : s.stack = []) : exec .ret s = .next (s.raise .stackUnderflow) := by
  simp [exec, execRet, State.pop, h, Except.map, State.commit]

/-- R121: RET takes the last entry of the stack. -/
theorem exec_ret_append {l : List Word} {a : Word} (h : s.stack = l ++ [a]) :
    exec .ret s = .next (State.setPc { s.advance with stack := l } a) := by
  simp [exec, execRet, State.pop, h, Except.map, State.commit]

end StackInstructions

section Instructions

variable {s t : State} (hs : s.Inv) (hpc : s.pc.toNat ≤ 0xFFE)
include hs hpc

theorem execCall_legal (nnn : Imm12) (h : exec (.call nnn) s = .next t) : s.LegalAfter t := by
  by_cases hfull : s.stack.length = s.cfg.stackDepth
  · rw [exec_call_full nnn hfull] at h; cases h
    exact ⟨by simpa using hs, rfl⟩
  · rw [exec_call_room nnn hfull] at h; cases h
    exact ⟨((hs.advance hpc).pushed (State.advance_pc_le hpc) hfull).setPc (State.addrOf_le nnn), rfl⟩

theorem execRet_legal (h : exec .ret s = .next t) : s.LegalAfter t := by
  rcases List.eq_nil_or_concat s.stack with hstack | ⟨l, a, hstack⟩
  · rw [exec_ret_empty hstack] at h; cases h
    exact ⟨by simpa using hs, rfl⟩
  · rw [List.concat_eq_append] at hstack
    rw [exec_ret_append hstack] at h; cases h
    exact ⟨(hs.advance hpc).returned hstack, rfl⟩

theorem execLdVxK_legal (x : Reg) (h : exec (.ldVxK x) s = .next t) : s.LegalAfter t := by
  have ha := hs.advance hpc
  simp only [exec, execLdVxK] at h
  split at h
  · cases h; exact ⟨ha.setPc hs.pcBound, rfl⟩
  · cases h
    unfold takeKey
    split <;> exact ⟨by simpa using ha, rfl⟩

/-- An instruction fetched by a legal machine leaves a legal machine with the same parameters. -/
theorem exec_legal (i : Instr) (h : exec i s = .next t) : s.LegalAfter t := by
  have ha := hs.advance hpc
  have hskip : ∀ c, (s.advance.skipIf c).Inv := ha.skipIf (State.advance_pc_le hpc)
  cases i with
  | call nnn => exact execCall_legal hs hpc nnn h
  | ret => exact execRet_legal hs hpc h
  | ldVxK x => exact execLdVxK_legal hs hpc x h
  | jp nnn => cases h; exact ⟨ha.setPc (State.addrOf_le nnn), rfl⟩
  | jpV0 nnn => cases h; exact ⟨ha.setPc (State.addrOf_add_zext16_le nnn _), rfl⟩
  | seImm | sneImm | seReg | sneReg | skp | sknp => cases h; exact ⟨hskip _, by simp⟩
  | ldB x => cases h; exact ⟨((ha.writeMem _ _).writeMem _ _).writeMem _ _, rfl⟩
  | storeRegs x => cases h; exact ⟨(State.inv_blockIndex x).2 (ha.storeBlock x), by simp⟩
  | loadRegs x => cases h; exact ⟨by simpa using ha, by simp⟩
  -- every other instruction advances `pc` and writes only fields that the invariant does not read
  | _ => cases h; exact ⟨by simpa using ha, rfl⟩

end Instructions

/-! ### The agents' operations (R290) -/

section Events

variable {s : State}

/-- R290: one step, whatever it fetches. -/
theorem step_legal {t : State} (hs : s.Inv) (h : step s = .next t) : s.LegalAfter t := by
  rcases step_cases h with ⟨-, rfl⟩ | ⟨-, -, rfl⟩ | ⟨w, -, hfetch, hword⟩
  · exact .refl hs
  · exact ⟨by simpa using hs, rfl⟩
  · have hpc := ((fetch_eq_some s w).1 hfetch).1
    rcases hword with ⟨i, -, hexec⟩ | ⟨-, rfl⟩ | ⟨-, rfl⟩
    · exact exec_legal hs hpc i hexec
    · exact ⟨hs.advance hpc, rfl⟩
    · exact ⟨by simpa using hs.advance hpc, rfl⟩

theorem stepState_legal (hs : s.Inv) : s.LegalAfter (stepState s) := by
  unfold stepState
  cases h : step s with
  | next t => exact step_legal hs h
  | fault => exact .refl hs
  | refused => exact .refl hs

theorem decrementTimers_legal (hs : s.Inv) : s.LegalAfter (decrementTimers s) := by
  unfold decrementTimers
  split
  · exact ⟨by simpa using hs, rfl⟩
  · exact .refl hs

theorem press_legal (code : Int) (hs : s.Inv) : s.LegalAfter (press code s) := by
  unfold press
  split
  · exact ⟨by simpa using hs, rfl⟩
  · exact .refl hs

theorem release_legal (code : Int) (hs : s.Inv) : s.LegalAfter (release code s) := by
  unfold release
  split
  · exact ⟨by simpa using hs, rfl⟩
  · exact .refl hs

theorem togglePause_legal (hs : s.Inv) : s.LegalAfter (togglePause s) := ⟨hs.of_fields rfl rfl rfl rfl, rfl⟩

theorem storeBytes_legal (addr : Nat) (bytes : List Byte) (hs : s.Inv) : s.LegalAfter (storeBytes s addr bytes) := by
  induction bytes generalizing s addr with
  | nil => exact .refl hs
  | cons b bs ih =>
    have hb : s.LegalAfter (s.writeMem addr b) := ⟨hs.writeMem addr b, rfl⟩
    exact hb.trans (ih (addr + 1) hb.inv)

theorem loadRom_legal (rom : Option (List Byte)) (hs : s.Inv) : s.LegalAfter (loadRom rom s).1 := by
  unfold loadRom
  split
  · exact .refl hs
  · split
    · exact .refl hs
    · exact storeBytes_legal romBase _ hs

/-- R310: a new machine is legal at every value of the parameters. -/
theorem newMachine_inv (cfg : Config) (draws : Nat) : (newMachine cfg draws).Inv where
  memWf := Mem.nil_wf cfg
  stackBound := Nat.zero_le _
  returnBound := by simp [newMachine]
  pcBound := by simp [newMachine, pcMax]

theorem romSwitch_legal (rom : Option (List Byte)) (hs : s.Inv) : s.LegalAfter (romSwitch rom s).1 := by
  have hfresh : s.LegalAfter (freshMachine s) := ⟨newMachine_inv s.cfg s.draws, rfl⟩
  have hload := hfresh.trans (loadRom_legal rom hfresh.inv)
  unfold romSwitch
  split
  · next h => rw [h] at hload; exact hload
  · exact .refl hs

theorem applyEvent_legal (e : Event) (hs : s.Inv) : s.LegalAfter (applyEvent e s).1 := by
  cases e with
  | step => exact stepState_legal hs
  | decrementTimers => exact decrementTimers_legal hs
  | press code => exact press_legal code hs
  | release code => exact release_legal code hs
  | togglePause => exact togglePause_legal hs
  | loadRom rom => exact loadRom_legal rom hs
  | romSwitch rom => exact romSwitch_legal rom hs

theorem runEvents_legal (es : List Event) (hs : s.Inv) : s.LegalAfter (runEvents es s) := by
  induction es generalizing s with
  | nil => exact .refl hs
  | cons e es ih =>
    have he := applyEvent_legal e hs
    exact he.trans (ih he.inv)

end Events

/-- Settles O16, by induction on the events: each of them keeps a legal machine legal and leaves the parameters alone. -/
theorem everyRunKeepsLegalMachine : Obligations.EveryRunKeepsLegalMachine := by
  intro es s hs
  have h := runEvents_legal es hs
  exact ⟨h.inv, h.cfg_eq⟩

/-! ## RND (R163) -/

/-- R86: a word under the mask 0xF000 shows its `op`. -/
theorem fieldOp_of_and_F000 {w k : Word} (h : w &&& 0xF000 = k) : (fieldOp w).val = k.toNat / 4096 := by
  have := (and_F000 w k).1 h
  omega

theorem decode_rnd {w : Word} (h : w &&& 0xF000 = 0xC000) : decode w = .instr (.rnd (fieldX w) (fieldNN w)) := by
  have hop : (fieldOp w).val = 0xC := fieldOp_of_and_F000 h
  simp only [decode, hop]

/-- A byte under a mask has no bit outside the mask. -/
theorem and_and_not_self (b nn : Byte) : b &&& nn &&& ~~~nn = 0 := by
  rw [BitVec.and_assoc, BitVec.and_not_self]; exact BitVec.and_zero

/-- Settles O31: the state that RND leaves is written out, and the register rules read it. -/
theorem randomByteIsMasked : Obligations.RandomByteIsMasked := by
  refine ⟨fun w h => decode_rnd h, fun x nn s => ⟨s.advance.nextDraw.writeV x (s.drawnByte &&& nn), rfl, ?_, ?_, ?_, rfl⟩⟩
  · exact State.readV_writeV_same _ x _
  · rw [State.v_eq_readV, State.readV_writeV_same]
    exact and_and_not_self _ nn
  · intro r hr
    exact State.readV_writeV_other _ _ hr

end Sys2Proof.Machine

/-! # Proofs: the family 10_state.md -/

namespace Sys2Proof.Machine

/-- Settles O14: `step_legal` goes through what a step can do, and an instruction is fetched at 0xFFE or below. -/
theorem stepKeepsLegalMachine : Obligations.StepKeepsLegalMachine := fun _ _ hs h => (step_legal hs h).inv

/-! ## The malformed words (R89, R275) -/

theorem decode_malformed {w : Word} (hop : fieldOp w = 5) (hn : fieldN w ≠ 0) : decode w = .malformed w := by
  have hop : (fieldOp w).val = 5 := congrArg Fin.val hop
  simp only [decode, hop, decodeGroup5, if_neg hn]

/-- Settles O13: the fetched word is in the malformed class, which `step` and `stepReport` both look at. -/
theorem malformedWordIsCountedNoOp : Obligations.MalformedWordIsCountedNoOp := by
  intro s w hrun hpaused hfetch hop hn
  have hactive := (active_iff s).2 ⟨hrun, hpaused⟩
  have hdecode := decode_malformed hop hn
  constructor
  · rw [step_of_fetch hactive hfetch, hdecode]; rfl
  · simp [stepReport, fetchedReport, hactive, hfetch, hdecode]

/-! ## CALL and RET (R121, R123) -/

theorem addrOf_toNat (nnn : Imm12) : (addrOf nnn).toNat = nnn.toNat := by
  have := nnn.isLt
  simp [addrOf]; omega

theorem decode_call {w : Word} (h : w &&& 0xF000 = 0x2000) : decode w = .instr (.call (fieldNNN w)) := by
  have hop : (fieldOp w).val = 2 := fieldOp_of_and_F000 h
  simp only [decode, hop]

/-- Settles O19: a stack with a last entry, and the empty one. -/
theorem returnPopsOrUnderflows : Obligations.ReturnPopsOrUnderflows :=
  ⟨by decide, fun _ => ⟨fun _ _ hstack => exec_ret_append hstack, exec_ret_empty⟩⟩

/-- Settles O21: a stack with room, and a full one. -/
theorem callPushesOrOverflows : Obligations.CallPushesOrOverflows :=
  ⟨fun _ h => decode_call h, fun nnn _ =>
    ⟨fun hroom => ⟨_, exec_call_room nnn hroom, addrOf_toNat nnn, rfl⟩, exec_call_full nnn⟩⟩

/-- Settles O22: the return address is the last entry of the stack that the call leaves. -/
theorem returnUndoesCall : Obligations.ReturnUndoesCall := by
  intro nnn p s t u hroom hcall hret
  rw [exec_call_room nnn hroom] at hcall; cases hcall
  rw [exec_ret_append rfl] at hret; cases hret
  rfl

/-! ## The flag writers of the ALU (R157-R161) -/

/-- Group 8 is dispatched on the low four bits, which the mask 0xF00F shows beside `op` (R85, R86). -/
theorem decode_group8 {w k : Word} {d : Decoded} (h : w &&& 0xF00F = k) (hop : k.toNat / 4096 = 8)
    (hd : (fieldN w).val = k.toNat % 4096 → decodeGroup8 w = d) : decode w = d := by
  have hk := (and_F00F w k).1 h
  have hn := (fieldN w).isLt
  have hop : (fieldOp w).val = 8 := by omega
  simp only [decode, hop]
  exact hd (by omega)

/-- R25: what an instruction leaves that writes a data result to `V[x]` and then a flag: VF holds the flag, a destination other
than VF the data, and nothing else but `pc` changes. -/
theorem State.advance_writeDataThenFlag_spec {s t : State} {x : Reg} {d f : Byte}
    (h : t = s.advance.writeDataThenFlag x d f) :
    t.v[15] = f ∧ (x ≠ 15 → t.v[x] = d) ∧ (∀ r : Reg, r ≠ x → r ≠ 15 → t.v[r] = s.v[r]) ∧
      t = { s with pc := s.pc + 2, v := t.v } := by
  subst h
  have hread := s.advance.readV_writeDataThenFlag x
  refine ⟨(hread 15 d f).trans (if_pos rfl), fun hx => ?_, fun r hrx hr => ?_, rfl⟩
  · exact ((hread x d f).trans (if_neg hx)).trans (if_pos rfl)
  · exact ((hread r d f).trans (if_neg hr)).trans (if_neg hrx)

theorem flagByte_decide (p : Prop) [Decidable p] : flagByte (decide p) = if p then 1 else 0 := by
  by_cases h : p <;> simp [flagByte, h]

/-- Settles O28: the carry is written after the sum. -/
theorem addWithCarry : Obligations.AddWithCarry := by
  refine ⟨fun w h => decode_group8 h rfl fun hn => by simp [decodeGroup8, hn], fun x y s => ⟨_, rfl, ?_⟩⟩
  obtain ⟨hflag, hdata, hother, hframe⟩ := State.advance_writeDataThenFlag_spec rfl
  refine ⟨hflag.trans (flagByte_decide _), fun hx => ?_, hother, hframe⟩
  rw [hdata hx]; exact BitVec.toNat_ofNat _ 8

/-- R158, R160: the difference of two bytes modulo 256. -/
theorem ofInt_sub_toNat (a b : Byte) :
    ((BitVec.ofInt 8 (a.toNat - b.toNat : Int)).toNat : Int) = ((a.toNat : Int) - b.toNat) % 256 := by
  rw [BitVec.toNat_ofInt]
  exact Int.toNat_of_nonneg (Int.emod_nonneg _ (by decide))

/-- Settles O29: the not-borrow flag is written after the difference, whichever operand is the minuend. -/
theorem subtractWithNotBorrow : Obligations.SubtractWithNotBorrow := by
  refine ⟨fun w h => decode_group8 h rfl fun hn => by simp [decodeGroup8, hn],
    fun w h => decode_group8 h rfl fun hn => by simp [decodeGroup8, hn], fun x y s => ⟨⟨_, rfl, ?_⟩, ⟨_, rfl, ?_⟩⟩⟩
  all_goals
    obtain ⟨hflag, hdata, hother, hframe⟩ := State.advance_writeDataThenFlag_spec rfl
    refine ⟨hflag.trans (flagByte_decide _), fun hx => ?_, hother, hframe⟩
    rw [hdata hx]; exact ofInt_sub_toNat _ _

theorem droppedLowFlag_toNat (b : Byte) : (droppedLowFlag b).toNat = b.toNat % 2 := by
  simp only [droppedLowFlag, flagByte_toNat, BitVec.getLsbD, Nat.testBit_zero, decide_eq_true_eq]
  split <;> omega

theorem droppedHighFlag_toNat (b : Byte) : (droppedHighFlag b).toNat = b.toNat / 128 := by
  have := b.isLt
  simp only [droppedHighFlag, flagByte_toNat, BitVec.getLsbD, Nat.testBit_eq_decide_div_mod_eq, decide_eq_true_eq]
  split <;> omega

/-- Settles O30: both shifts shift the source that SHIFT_USES_VY selects and write its dropped bit last. -/
theorem shiftWithDroppedBit : Obligations.ShiftWithDroppedBit := by
  refine ⟨fun w h => decode_group8 h rfl fun hn => by simp [decodeGroup8, hn],
    fun w h => decode_group8 h rfl fun hn => by simp [decodeGroup8, hn], ?_⟩
  intro x y s b hb
  have hb : s.shiftSource x y = b := hb.symm
  refine ⟨⟨_, rfl, ?_⟩, ⟨_, rfl, ?_⟩⟩ <;> rw [hb]
  · obtain ⟨hflag, hdata, hother, hframe⟩ := State.advance_writeDataThenFlag_spec rfl
    refine ⟨by rw [hflag, droppedLowFlag_toNat], fun hx => ?_, hother, hframe⟩
    rw [hdata hx, BitVec.toNat_ushiftRight, Nat.shiftRight_eq_div_pow]
  · obtain ⟨hflag, hdata, hother, hframe⟩ := State.advance_writeDataThenFlag_spec rfl
    refine ⟨by rw [hflag, droppedHighFlag_toNat], fun hx => ?_, hother, hframe⟩
    rw [hdata hx, BitVec.toNat_shiftLeft, Nat.shiftLeft_eq]

/-! ## The frame of every instruction

`Instr.frame i s t` is `s` with the fields that `i` may write taken from `t`; `exec_frame` says that the machine after `i` is of
this form. Which instructions may change a field is then read off the frame. -/

/-- `s` with the fields that the instruction may write taken from `t`. -/
def instrFrame (i : Instr) (s t : State) : State :=
  match i with
  | .cls => { s with pc := t.pc, disp := t.disp }
  | .ret | .call _ => { s with pc := t.pc, stack := t.stack, status := t.status }
  | .sys _ | .jp _ | .jpV0 _ => { s with pc := t.pc }
  | .seImm _ _ | .sneImm _ _ | .seReg _ _ | .sneReg _ _ | .skp _ | .sknp _ => { s with pc := t.pc }
  | .ldImm _ _ | .addImm _ _ | .ldReg _ _ | .orReg _ _ | .andReg _ _ | .xorReg _ _ => { s with pc := t.pc, v := t.v }
  | .addReg _ _ | .sub _ _ | .shr _ _ | .subn _ _ | .shl _ _ | .ldVxDt _ => { s with pc := t.pc, v := t.v }
  | .rnd _ _ => { s with pc := t.pc, v := t.v, draws := t.draws }
  | .drw _ _ _ => { s with pc := t.pc, v := t.v, disp := t.disp }
  | .ldVxK _ => { s with pc := t.pc, v := t.v, keys := t.keys, draws := t.draws }
  | .ldDtVx _ => { s with pc := t.pc, dt := t.dt }
  | .ldStVx _ => { s with pc := t.pc, st := t.st }
  | .ldI _ | .addI _ | .ldF _ => { s with pc := t.pc, index := t.index }
  | .ldB _ => { s with pc := t.pc, mem := t.mem }
  | .storeRegs _ => { s with pc := t.pc, mem := t.mem, index := t.index }
  | .loadRegs _ => { s with pc := t.pc, v := t.v, index := t.index }

section Frames

variable {i : Instr} {s t : State}

theorem State.skipIf_eq (s : State) (c : Bool) : s.skipIf c = { s with pc := (s.skipIf c).pc } := by cases c <;> rfl

/-- R243: taking a key writes `V[x]`, and the keys only under FX0A_REMOVES_KEY. -/
theorem takeKey_eq (x : Reg) (k : Key) (s : State) : takeKey x k s =
    { s with v := s.v.set x (BitVec.ofNat 8 k.val), keys := if s.cfg.fx0aRemovesKey then s.keys.set k false else s.keys } := by
  unfold takeKey; split <;> rfl

/-- Everything Fx0A can do (R243): it waits, and nothing changes, or it takes a held key. -/
theorem exec_ldVxK_cases {x : Reg} (h : exec (.ldVxK x) s = .next t) :
    (s.heldKeys = [] ∧ t = s) ∨ ∃ k ∈ s.heldKeys, t = takeKey x k s.advance.nextDraw := by
  simp only [exec, execLdVxK] at h
  split at h
  · next hnone => cases h; exact .inl ⟨hnone, rfl⟩
  · next k ks hheld => cases h; exact .inr ⟨_, hheld ▸ pickKey_mem k ks _, rfl⟩

theorem exec_call_frame {nnn : Imm12} (h : exec (.call nnn) s = .next t) : t = instrFrame (.call nnn) s t := by
  by_cases hfull : s.stack.length = s.cfg.stackDepth
  · rw [exec_call_full nnn hfull] at h; cases h; rfl
  · rw [exec_call_room nnn hfull] at h; cases h; rfl

theorem exec_ret_frame (h : exec .ret s = .next t) : t = instrFrame .ret s t := by
  rcases List.eq_nil_or_concat s.stack with hstack | ⟨l, a, hstack⟩
  · rw [exec_ret_empty hstack] at h; cases h; rfl
  · rw [List.concat_eq_append] at hstack
    rw [exec_ret_append hstack] at h; cases h; rfl

theorem exec_ldVxK_frame {x : Reg} (h : exec (.ldVxK x) s = .next t) : t = instrFrame (.ldVxK x) s t := by
  rcases exec_ldVxK_cases h with ⟨-, rfl⟩ | ⟨k, -, rfl⟩
  · rfl
  · rw [takeKey_eq]; rfl

/-- The machine after an instruction differs from the one before in the instruction's frame only. -/
theorem exec_frame (h : exec i s = .next t) : t = instrFrame i s t := by
  cases i with
  | call nnn => exact exec_call_frame h
  | ret => exact exec_ret_frame h
  | ldVxK x => exact exec_ldVxK_frame h
  | seImm | sneImm | seReg | sneReg | skp | sknp => cases h; rw [State.skipIf_eq]; rfl
  | storeRegs x => cases h; rw [State.blockIndex_eq, State.storeBlock_fields]; rfl
  | loadRegs x => cases h; rw [State.blockIndex_eq, State.loadBlock_fields]; rfl
  | _ => cases h; rfl

theorem exec_stack (h : exec i s = .next t) (hne : t.stack ≠ s.stack) : i = .ret ∨ ∃ nnn, i = .call nnn := by
  cases i with
  | ret => exact .inl rfl
  | call nnn => exact .inr ⟨nnn, rfl⟩
  | _ => exact absurd (congrArg State.stack (exec_frame h)) hne

theorem exec_status (h : exec i s = .next t) (hne : t.status ≠ s.status) : i = .ret ∨ ∃ nnn, i = .call nnn := by
  cases i with
  | ret => exact .inl rfl
  | call nnn => exact .inr ⟨nnn, rfl⟩
  | _ => exact absurd (congrArg State.status (exec_frame h)) hne

theorem exec_dt (h : exec i s = .next t) (hne : t.dt ≠ s.dt) : ∃ x, i = .ldDtVx x := by
  cases i with
  | ldDtVx x => exact ⟨x, rfl⟩
  | _ => exact absurd (congrArg State.dt (exec_frame h)) hne

theorem exec_st (h : exec i s = .next t) (hne : t.st ≠ s.st) : ∃ x, i = .ldStVx x := by
  cases i with
  | ldStVx x => exact ⟨x, rfl⟩
  | _ => exact absurd (congrArg State.st (exec_frame h)) hne

theorem exec_disp (h : exec i s = .next t) (hne : t.disp ≠ s.disp) : i = .cls ∨ ∃ x y n, i = .drw x y n := by
  cases i with
  | cls => exact .inl rfl
  | drw x y n => exact .inr ⟨x, y, n, rfl⟩
  | _ => exact absurd (congrArg State.disp (exec_frame h)) hne

theorem exec_mem (h : exec i s = .next t) (hne : t.mem ≠ s.mem) : ∃ x, i = .ldB x ∨ i = .storeRegs x := by
  cases i with
  | ldB x => exact ⟨x, .inl rfl⟩
  | storeRegs x => exact ⟨x, .inr rfl⟩
  | _ => exact absurd (congrArg State.mem (exec_frame h)) hne

/-- R9, R36, R38: what no instruction writes. -/
theorem exec_fixed (h : exec i s = .next t) :
    t.paused = s.paused ∧ t.malformedCount = s.malformedCount ∧ t.cfg = s.cfg := by
  rw [exec_frame h]
  cases i <;> exact ⟨rfl, rfl, rfl⟩

/-- R195, R196: without BLOCK_INCREMENTS_I a block copy leaves `I`. -/
theorem blockIncrementsI_of_index_ne {u : State} {x : Reg} (hcfg : u.cfg = s.cfg) (hindex : u.index = s.index)
    (hne : (u.blockIndex x).index ≠ s.index) : s.cfg.blockIncrementsI = true := by
  by_contra hoff
  rw [← hcfg] at hoff
  rw [State.blockIndex_eq] at hne
  exact hne ((if_neg hoff).trans hindex)

theorem exec_index (h : exec i s = .next t) (hne : t.index ≠ s.index) :
    (∃ nnn, i = .ldI nnn) ∨ (∃ x, i = .addI x ∨ i = .ldF x) ∨
      (s.cfg.blockIncrementsI = true ∧ ∃ x, i = .storeRegs x ∨ i = .loadRegs x) := by
  cases i with
  | ldI nnn => exact .inl ⟨nnn, rfl⟩
  | addI x => exact .inr (.inl ⟨x, .inl rfl⟩)
  | ldF x => exact .inr (.inl ⟨x, .inr rfl⟩)
  | storeRegs x =>
    cases h
    exact .inr (.inr ⟨blockIncrementsI_of_index_ne (by simp) (by rw [State.storeBlock_fields]; rfl) hne, x, .inl rfl⟩)
  | loadRegs x =>
    cases h
    exact .inr (.inr ⟨blockIncrementsI_of_index_ne (by simp) (by rw [State.loadBlock_fields]; rfl) hne, x, .inr rfl⟩)
  | _ => exact absurd (congrArg State.index (exec_frame h)) hne

theorem exec_keys (h : exec i s = .next t) (hne : t.keys ≠ s.keys) :
    s.cfg.fx0aRemovesKey = true ∧ ∃ x, i = .ldVxK x := by
  cases i with
  | ldVxK x =>
    refine ⟨?_, x, rfl⟩
    rcases exec_ldVxK_cases h with ⟨-, rfl⟩ | ⟨k, -, rfl⟩
    · exact absurd rfl hne
    · by_contra hkeep
      rw [takeKey_eq] at hne
      exact hne (if_neg hkeep)
  | _ => exact absurd (congrArg State.keys (exec_frame h)) hne

/-- An instruction that writes one register, `x`, and changes VF has VF as its destination. -/
theorem eq_flagReg_of_writeV {u : State} {x : Reg} {b : Byte} (hu : u.v = s.v) (hne : (u.writeV x b).v[15] ≠ s.v[15]) :
    x = 15 := by
  by_contra hx
  exact hne ((u.readV_writeV_other b (Ne.symm hx)).trans (congrArg (·[15]) hu))

theorem exec_ldVxK_flagReg {x : Reg} (h : exec (.ldVxK x) s = .next t) (hne : t.v[15] ≠ s.v[15]) : x = 15 := by
  rcases exec_ldVxK_cases h with ⟨-, rfl⟩ | ⟨k, -, rfl⟩
  · exact absurd rfl hne
  · rw [takeKey_eq] at hne
    exact eq_flagReg_of_writeV (u := s) rfl hne

theorem exec_loadRegs_flagReg {x : Reg} (h : exec (.loadRegs x) s = .next t) (hne : t.v[15] ≠ s.v[15]) : x = 15 := by
  cases h
  by_contra hx
  have habove : ¬ (15 : Reg) ≤ x := fun hle => hx (Fin.le_antisymm (Fin.le_last x) hle)
  exact hne (((State.blockIndex_readV _ x 15).trans (State.loadBlock_readV _ x 15)).trans (if_neg habove))

end Frames

/-- Settles O45: the frame leaves the instructions that write `V`; each of them either is a flag writer or writes one
destination, or the block up to it. -/
theorem onlyTheseWriteVF : Obligations.OnlyTheseWriteVF := by
  intro i s t h hne
  cases i with
  | addReg x y | sub x y | shr x y | subn x y | shl x y => exact .inl ⟨x, y, by simp⟩
  | drw x y n => exact .inr (.inl ⟨x, y, n, rfl⟩)
  | ldVxK x => simp [exec_ldVxK_flagReg h hne]
  | loadRegs x => simp [exec_loadRegs_flagReg h hne]
  | ldImm x | addImm x | rnd x | ldReg x | orReg x | andReg x | xorReg x | ldVxDt x =>
    cases h
    obtain rfl : x = 15 := eq_flagReg_of_writeV rfl hne
    simp
  -- the frame of every other instruction leaves `V`
  | _ => exact absurd (congrArg (fun u => u.v[15]) (exec_frame h)) hne

/-- Settles O46: a byte that reads differently stands in a memory that differs. -/
theorem displayAndMemoryWriters : Obligations.DisplayAndMemoryWriters := by
  refine fun i s t h => ⟨exec_disp h, fun ⟨a, ha⟩ => exec_mem h fun hmem => ha ?_⟩
  obtain ⟨-, -, hcfg⟩ := exec_fixed h
  rw [State.readMem, State.readMem, hmem, hcfg]

/-- Settles O47: each field's writers are read off the frame. -/
theorem specialStateWriters : Obligations.SpecialStateWriters := fun _ _ _ h =>
  ⟨exec_stack h, exec_index h, exec_dt h, exec_st h, exec_keys h, exec_status h, exec_fixed h⟩

/-! ## ST and `malformed_count` are never read (R33, R36)

`State.withUnread` gives a machine other values of the two; every operation commutes with it, up to what it leaves in them. -/

/-- The machine with other values of ST and `malformed_count`. -/
def State.withUnread (s : State) (b : Byte) (n : Nat) : State := { s with st := b, malformedCount := n }

section Unread

variable {i : Instr} {s t : State} {b : Byte} {n : Nat}

theorem State.skipIf_withUnread (c : Bool) : (s.withUnread b n).skipIf c = (s.skipIf c).withUnread b n := by
  cases c <;> rfl

theorem State.storeList_withUnread (f : Reg → Nat) (g : Reg → Byte) (l : List Reg) :
    l.foldl (fun t r => t.writeMem (f r) (g r)) (s.withUnread b n) =
      (l.foldl (fun t r => t.writeMem (f r) (g r)) s).withUnread b n := by
  induction l generalizing s with
  | nil => rfl
  | cons r l ih => exact ih (s := s.writeMem (f r) (g r))

theorem State.loadList_withUnread (g : Reg → Byte) (l : List Reg) :
    l.foldl (fun t r => t.writeV r (g r)) (s.withUnread b n) =
      (l.foldl (fun t r => t.writeV r (g r)) s).withUnread b n := by
  induction l generalizing s with
  | nil => rfl
  | cons r l ih => exact ih (s := s.writeV r (g r))

theorem State.storeBlock_withUnread (x : Reg) : (s.withUnread b n).storeBlock x = (s.storeBlock x).withUnread b n :=
  storeList_withUnread _ _ _

theorem State.loadBlock_withUnread (x : Reg) : (s.withUnread b n).loadBlock x = (s.loadBlock x).withUnread b n :=
  loadList_withUnread _ _

theorem State.blockIndex_withUnread (x : Reg) : (s.withUnread b n).blockIndex x = (s.blockIndex x).withUnread b n := by
  rw [blockIndex_eq, blockIndex_eq]; rfl

theorem exec_call_withUnread {nnn : Imm12} (h : exec (.call nnn) s = .next t) :
    exec (.call nnn) (s.withUnread b n) = .next (t.withUnread b n) := by
  by_cases hfull : s.stack.length = s.cfg.stackDepth
  · rw [exec_call_full nnn hfull] at h; cases h
    exact exec_call_full nnn hfull
  · rw [exec_call_room nnn hfull] at h; cases h
    exact exec_call_room nnn hfull

theorem exec_ret_withUnread (h : exec .ret s = .next t) : exec .ret (s.withUnread b n) = .next (t.withUnread b n) := by
  rcases List.eq_nil_or_concat s.stack with hstack | ⟨l, a, hstack⟩
  · rw [exec_ret_empty hstack] at h; cases h
    exact exec_ret_empty hstack
  · rw [List.concat_eq_append] at hstack
    rw [exec_ret_append hstack] at h; cases h
    exact exec_ret_append hstack

theorem exec_ldVxK_withUnread {x : Reg} (h : exec (.ldVxK x) s = .next t) :
    exec (.ldVxK x) (s.withUnread b n) = .next (t.withUnread b n) := by
  have hheld : (s.withUnread b n).heldKeys = s.heldKeys := rfl
  simp only [exec, execLdVxK, hheld] at h ⊢
  split at h
  · cases h; rfl
  · cases h; rw [takeKey_eq, takeKey_eq]; rfl

/-- An instruction runs alike whatever ST and `malformed_count` are; only LD ST, Vx leaves another value in one of them. -/
theorem exec_withUnread (h : exec i s = .next t) :
    ∃ b', exec i (s.withUnread b n) = .next (t.withUnread b' n) := by
  cases i with
  | call nnn => exact ⟨b, exec_call_withUnread h⟩
  | ret => exact ⟨b, exec_ret_withUnread h⟩
  | ldVxK x => exact ⟨b, exec_ldVxK_withUnread h⟩
  | seImm | sneImm | seReg | sneReg | skp | sknp =>
    cases h; refine ⟨b, congrArg Host.Outcome.next ?_⟩
    rw [← State.skipIf_withUnread]; rfl
  | storeRegs x =>
    cases h; refine ⟨b, congrArg Host.Outcome.next ?_⟩
    rw [← State.blockIndex_withUnread, ← State.storeBlock_withUnread]; rfl
  | loadRegs x =>
    cases h; refine ⟨b, congrArg Host.Outcome.next ?_⟩
    rw [← State.blockIndex_withUnread, ← State.loadBlock_withUnread]; rfl
  | ldStVx x => cases h; exact ⟨s.readV x, rfl⟩
  | _ => cases h; exact ⟨b, rfl⟩

theorem step_withUnread (h : step s = .next t) :
    ∃ b' n', step (s.withUnread b n) = .next (t.withUnread b' n') := by
  rcases step_cases h with ⟨hactive, rfl⟩ | ⟨hactive, hfetch, rfl⟩ | ⟨w, hactive, hfetch, hword⟩
  · exact ⟨b, n, step_of_inactive hactive⟩
  · exact ⟨b, n, step_of_overrun hactive hfetch⟩
  · have hstep : step (s.withUnread b n) = execDecoded (decode w) (s.withUnread b n) := step_of_fetch hactive hfetch
    rw [hstep]
    rcases hword with ⟨i, hdecode, hexec⟩ | ⟨hdecode, rfl⟩ | ⟨hdecode, rfl⟩ <;> rw [hdecode]
    · obtain ⟨b', hb⟩ := exec_withUnread (b := b) (n := n) hexec
      exact ⟨b', n, hb⟩
    · exact ⟨b, n, rfl⟩
    · exact ⟨b, n + 1, rfl⟩

end Unread

/-- Settles O49: the second run is the first one with other values of ST and `malformed_count`, at every step. -/
theorem soundTimerAndCountAreNeverRead : Obligations.SoundTimerAndCountAreNeverRead := by
  intro s t t' b n h h'
  obtain ⟨b', n', hstep⟩ := step_withUnread (b := b) (n := n) h
  cases h'.symm.trans hstep
  rfl

/-! ## The new machine (R27, R67, R310) -/

/-- R20, R67: a new machine's memory reads as the reset contents. -/
theorem newMachine_readMem (cfg : Config) (d : Nat) {a : Nat} (ha : a < 4096) :
    (newMachine cfg d).readMem a = resetByte cfg a := by
  rw [State.readMem, Nat.mod_eq_of_lt ha]; rfl

theorem resetByte_glyph0 (cfg : Config) {a : Nat} (ha : a < 5) : resetByte cfg a = glyph0.getD a 0 := by
  rw [resetByte, if_pos (by omega), fontByte, if_pos ha]

theorem resetByte_glyphs1toE (cfg : Config) {a : Nat} (ha : a < 70) : resetByte cfg (5 + a) = cfg.glyphs1toE[a] := by
  rw [resetByte, if_pos (by omega), fontByte, if_neg (by omega), dif_pos (by omega)]
  simp only [Nat.add_sub_cancel_left]

theorem resetByte_glyphF (cfg : Config) {a : Nat} (ha : a < 5) : resetByte cfg (75 + a) = glyphF.getD a 0 := by
  rw [resetByte, if_pos (by omega), fontByte, if_neg (by omega), dif_neg (by omega), Nat.add_sub_cancel_left]

theorem resetByte_zero (cfg : Config) {a : Nat} (ha : 80 ≤ a) : resetByte cfg a = 0 := if_neg (by omega)

/-- Settles O52: the fields are those of `newMachine`, and memory reads as the reset contents, glyph by glyph. -/
theorem newMachineState : Obligations.NewMachineState := by
  refine ⟨⟨0, rfl⟩, fun cfg d m hm => ?_⟩
  subst hm
  have hglyph0 : (List.range 5).map (newMachine cfg d).readMem = (List.range 5).map (glyph0.getD · 0) :=
    List.map_congr_left fun a ha => by
      have ha := List.mem_range.1 ha
      rw [newMachine_readMem cfg d (by omega), resetByte_glyph0 cfg ha]
  have hglyphF : (List.range 5).map (fun a => (newMachine cfg d).readMem (75 + a)) = (List.range 5).map (glyphF.getD · 0) :=
    List.map_congr_left fun a ha => by
      have ha := List.mem_range.1 ha
      rw [newMachine_readMem cfg d (by omega), resetByte_glyphF cfg ha]
  refine ⟨fun r => ?_, rfl, rfl, rfl, rfl, rfl, fun xx _ yy _ => ?_, fun k => ?_, rfl, rfl, rfl, hglyph0, fun a ha => ?_,
    hglyphF, fun a hfont ha => ?_⟩
  · simp [newMachine]
  · simp [newMachine, pix]
  · simp [newMachine]
  · rw [newMachine_readMem cfg d (by omega), resetByte_glyphs1toE cfg ha]
  · rw [newMachine_readMem cfg d ha, resetByte_zero cfg hfont]

end Sys2Proof.Machine

/-! # Proofs: the family 20_memory.md -/

namespace Sys2Proof.Machine

/-! ## Fetch and step (R61, R94) -/

/-- Settles O6: the fetch gives the word of the two bytes, and the step of an active machine is what that word decodes to. -/
theorem stepRunsDecodedInstruction : Obligations.StepRunsDecodedInstruction := by
  intro s i hrunning hunpaused hpc hdecode
  have hactive := (active_iff s).2 ⟨hrunning, hunpaused⟩
  have hfetch := (fetch_eq_some s _).2 ⟨hpc, rfl⟩
  rw [step_of_fetch hactive hfetch, wordOfBytes, hdecode, execDecoded]

/-- R62: an address counts modulo 4096 only. -/
theorem State.readMem_congr (s : State) {a p : Nat} (h : p % 4096 = a % 4096) : s.readMem p = s.readMem a := by
  rw [readMem, readMem, h]

/-- R61, R62: a fetch at the cell of an address gives the bytes at that address and the next one, through the wrap of the
addresses too. -/
theorem fetch_of_bytes {t : State} {a : Nat} {hi lo : Byte} (hfetchable : t.pc.toNat ≤ 0xFFE) (hpc : t.pc.toNat = a % 4096)
    (hhi : t.readMem a = hi) (hlo : t.readMem (a + 1) = lo) : t.fetch = some (wordOfBytes hi lo) := by
  refine (fetch_eq_some t _).2 ⟨hfetchable, ?_⟩
  rw [← hhi, ← hlo, t.readMem_congr (p := t.pc.toNat) (a := a) (by omega),
    t.readMem_congr (p := t.pc.toNat + 1) (a := a + 1) (by omega)]

/-! ## What the two stores leave in memory (R194, R195) -/

section Stores

variable {x : Reg} {s t : State}

/-- R195: after LD [I], Vx the byte at `I + r` is `V[r]`. -/
theorem exec_storeRegs_readMem (h : exec (.storeRegs x) s = .next t) {r : Reg} (hr : r ≤ x) :
    t.readMem (s.index.toNat + r.val) = s.readV r := by
  cases h
  rw [State.blockIndex_readMem]
  exact State.storeBlock_at s.advance x r hr

/-- R194: after LD B, Vx the bytes from `I` upward are the three digits. -/
theorem exec_ldB_readMem (h : exec (.ldB x) s = .next t) :
    t.readMem s.index.toNat = hundreds (s.readV x) ∧ t.readMem (s.index.toNat + 1) = tens (s.readV x) ∧
      t.readMem (s.index.toNat + 2) = ones (s.readV x) := by
  cases h
  have h01 : s.index.toNat % 4096 ≠ s.indexed 1 % 4096 := by rw [State.indexed]; omega
  have h02 : s.index.toNat % 4096 ≠ s.indexed 2 % 4096 := by rw [State.indexed]; omega
  have h12 : (s.index.toNat + 1) % 4096 ≠ s.indexed 2 % 4096 := by rw [State.indexed]; omega
  refine ⟨?_, ?_, State.readMem_writeMem_same _ _ _ _ rfl⟩
  · rw [State.readMem_writeMem_other _ _ _ _ h02, State.readMem_writeMem_other _ _ _ _ h01]
    exact State.readMem_writeMem_same _ _ _ _ rfl
  · rw [State.readMem_writeMem_other _ _ _ _ h12]
    exact State.readMem_writeMem_same _ _ _ _ rfl

end Stores

/-- R61: the word of two bytes given by their values. -/
theorem wordOfBytes_ofNat (hi lo : Nat) (hlo : lo < 256) :
    wordOfBytes (BitVec.ofNat 8 hi) (BitVec.ofNat 8 lo) = BitVec.ofNat 16 (hi * 256 + lo) := by
  apply BitVec.eq_of_toNat_eq
  rw [wordOfBytes, toNat_append_eq, BitVec.toNat_ofNat, BitVec.toNat_ofNat, BitVec.toNat_ofNat]
  omega

/-- Settles O36: a fetch reads memory as the store left it, two neighbouring bytes at a time. -/
theorem storedWordIsFetched : Obligations.StoredWordIsFetched := by
  refine fun x s t hfetchable => ⟨fun h r q hq hrq hpc => ?_, fun h hpc => ?_, fun h hpc => ?_⟩
  · have hr : r ≤ x := Fin.le_def.2 (by have := Fin.le_def.1 hq; omega)
    have hlo : t.readMem (s.index.toNat + r.val + 1) = s.readV q := by
      rw [Nat.add_assoc, ← hrq]; exact exec_storeRegs_readMem h hq
    exact fetch_of_bytes hfetchable hpc (exec_storeRegs_readMem h hr) hlo
  · obtain ⟨hhundreds, htens, -⟩ := exec_ldB_readMem h
    rw [fetch_of_bytes hfetchable hpc hhundreds htens, hundreds, tens, wordOfBytes_ofNat _ _ (by omega)]; rfl
  · obtain ⟨-, htens, hones⟩ := exec_ldB_readMem h
    rw [fetch_of_bytes hfetchable hpc htens hones, tens, ones, wordOfBytes_ofNat _ _ (by omega)]; rfl

end Sys2Proof.Machine

/-! # Proofs: the family 30_encoding.md -/

namespace Sys2Proof

/-! ## From an instruction to its word and back (R81, R82, R86)

The decoder is read in both directions: what it answers for the word of an instruction (`decode_encode`) and for a reserved
word (`decode_unrecognized`, and `decode_malformed` of an earlier family), and that whatever it answers is true of the word
(`decode_describes`). -/

theorem wordNNN_inj (op : BitVec 4) {nnn k : Imm12} : wordNNN op nnn = wordNNN op k ↔ nnn = k :=
  ⟨fun e => by rw [← fieldNNN_wordNNN op nnn, e, fieldNNN_wordNNN], congrArg _⟩

/-- R87: SYS is well-formed exactly when its word is neither CLS nor RET. -/
theorem sys_wellFormed_iff (nnn : Imm12) :
    (Instr.sys nnn).wellFormed = true ↔ encode (.sys nnn) ≠ 0x00E0 ∧ encode (.sys nnn) ≠ 0x00EE := by
  have hcls : encode (.sys nnn) = 0x00E0 ↔ nnn = 0x0E0 := wordNNN_inj 0x0 (k := 0x0E0)
  have hret : encode (.sys nnn) = 0x00EE ↔ nnn = 0x0EE := wordNNN_inj 0x0 (k := 0x0EE)
  simp only [ne_eq, hcls, hret, Instr.wellFormed, sysOperandOk, Bool.and_eq_true, bne_iff_ne]

/-- R85, R87: group 0 is SYS but for two words. -/
theorem decode_sys {w : Word} (hop : (fieldOp w).val = 0) (hcls : w ≠ 0x00E0) (hret : w ≠ 0x00EE) :
    decode w = .instr (.sys (fieldNNN w)) := by
  simp only [decode, hop, decodeGroup0, if_neg hcls, if_neg hret]

/-- The round trip, by the format of the instruction's word (R82): the fields of the word are the operands and the code that
the decoder dispatches on. -/
theorem decode_encode (i : Instr) (h : i.wellFormed = true) : decode (encode i) = .instr i := by
  cases i with
  | cls | ret => rfl
  | sys nnn =>
    obtain ⟨hcls, hret⟩ := (sys_wellFormed_iff nnn).1 h
    have hdecode := decode_sys (w := encode (.sys nnn)) (fieldOp_wordNNN 0x0 nnn) hcls hret
    rw [hdecode, encode, fieldNNN_wordNNN]
  | jp | call | ldI | jpV0 | seImm | sneImm | ldImm | addImm | rnd => simp [encode, decode]
  | seReg | sneReg => simp [encode, decode, decodeGroup5, decodeGroup9, Fin.ext_iff]
  | ldReg | orReg | andReg | xorReg | addReg | sub | shr | subn | shl => simp [encode, decode, decodeGroup8]
  | drw => simp [encode, decode, Fin.ext_iff]
  | skp | sknp => simp [encode, decode, decodeGroupE]
  | ldVxDt | ldVxK | ldDtVx | ldStVx | addI | ldF | ldB | storeRegs | loadRegs => simp [encode, decode, decodeGroupF]

/-- Settles O1: the round trip of `decode_encode`. -/
theorem encodeThenDecode : Obligations.EncodeThenDecode := decode_encode

/-! ## The reserved words (R88, R89) -/

/-- R88: the four classes of unrecognized words. -/
def UnrecognizedWord (w : Word) : Prop :=
  (fieldOp w = 8 ∧ fieldN w ∈ [8, 9, 0xA, 0xB, 0xC, 0xD, 0xF]) ∨ (fieldOp w = 9 ∧ fieldN w ≠ 0) ∨
  (fieldOp w = 0xE ∧ fieldNN w ∉ [0x9E#8, 0xA1#8]) ∨
  (fieldOp w = 0xF ∧ fieldNN w ∉ [0x07#8, 0x0A#8, 0x15#8, 0x18#8, 0x1E#8, 0x29#8, 0x33#8, 0x55#8, 0x65#8])

/-- The codes of a group as numbers, which the decoder compares. -/
theorem mem_toNat {b : Byte} {l : List Byte} : b ∈ l ↔ b.toNat ∈ l.map BitVec.toNat :=
  (List.mem_map_of_injective fun _ _ => BitVec.eq_of_toNat_eq).symm

theorem decodeGroup8_unrecognized {w : Word} (h : fieldN w ∈ [8, 9, 0xA, 0xB, 0xC, 0xD, 0xF]) :
    decodeGroup8 w = .unrecognized w := by
  simp only [List.mem_cons, List.not_mem_nil, or_false] at h
  rcases h with h | h | h | h | h | h | h <;> simp [decodeGroup8, h]

/-! In groups E and F an arm other than the last one is taken for a code of the list only. -/

theorem decodeGroupE_unrecognized {w : Word} (h : fieldNN w ∉ [0x9E#8, 0xA1#8]) :
    decodeGroupE w = .unrecognized w := by
  rw [mem_toNat] at h
  unfold decodeGroupE
  split <;> simp_all

theorem decodeGroupF_unrecognized {w : Word}
    (h : fieldNN w ∉ [0x07#8, 0x0A#8, 0x15#8, 0x18#8, 0x1E#8, 0x29#8, 0x33#8, 0x55#8, 0x65#8]) :
    decodeGroupF w = .unrecognized w := by
  rw [mem_toNat] at h
  unfold decodeGroupF
  split <;> simp_all

/-- R88: an unrecognized word is answered as such, group by group. -/
theorem decode_unrecognized {w : Word} (h : UnrecognizedWord w) : decode w = .unrecognized w := by
  rcases h with ⟨hop, hn⟩ | ⟨hop, hn⟩ | ⟨hop, hnn⟩ | ⟨hop, hnn⟩
  · simp only [decode, hop]; exact decodeGroup8_unrecognized hn
  · simp only [decode, hop]; exact if_neg hn
  · simp only [decode, hop]; exact decodeGroupE_unrecognized hnn
  · simp only [decode, hop]; exact decodeGroupF_unrecognized hnn

/-! ## Whatever the decoder answers is true of the word (R87-R89, R99) -/

/-- The answer `d` is true of the word: the word is that of the instruction (R99), or it is the word named and stands in the
reserved class (R88, R89). -/
def Decoded.Describes (d : Decoded) (w : Word) : Prop :=
  match d with
  | .instr i => i.wellFormed = true ∧ encode i = w
  | .unrecognized w' => w' = w ∧ UnrecognizedWord w
  | .malformed w' => w' = w ∧ fieldOp w = 5 ∧ fieldN w ≠ 0

section Groups

variable {w : Word}

/-- A word with the `nn` of a function code, rebuilt from its fields. -/
theorem wordXNN_code {op : BitVec 4} {nn : Byte} (hop : (fieldOp w).val = op.toNat) (hnn : (fieldNN w).toNat = nn.toNat) :
    wordXNN op (fieldX w) nn = w := by
  rw [← BitVec.eq_of_toNat_eq hnn]; exact wordXNN_fields w hop

theorem decodeGroup0_describes (hop : (fieldOp w).val = 0) : (decodeGroup0 w).Describes w := by
  unfold decodeGroup0
  split
  · next hcls => exact ⟨rfl, hcls.symm⟩
  · split
    · next hret => exact ⟨rfl, hret.symm⟩
    · next hcls hret =>
      have hsys : encode (.sys (fieldNNN w)) = w := wordNNN_fields w hop
      exact ⟨(sys_wellFormed_iff _).2 (hsys.symm ▸ ⟨hcls, hret⟩), hsys⟩

theorem decodeGroup5_describes (hop : (fieldOp w).val = 5) : (decodeGroup5 w).Describes w := by
  unfold decodeGroup5
  split
  · next hn => exact ⟨rfl, wordXYN_fields w hop (congrArg Fin.val hn)⟩
  · next hn => exact ⟨rfl, Fin.ext hop, hn⟩

theorem decodeGroup8_describes (hop : (fieldOp w).val = 8) : (decodeGroup8 w).Describes w := by
  have hlt := (fieldN w).isLt
  unfold decodeGroup8
  split
  case h_10 => exact ⟨rfl, .inl ⟨Fin.ext hop, by simp only [List.mem_cons, Fin.ext_iff]; grind⟩⟩
  all_goals next hn => exact ⟨rfl, wordXYN_fields w hop hn⟩

theorem decodeGroup9_describes (hop : (fieldOp w).val = 9) : (decodeGroup9 w).Describes w := by
  unfold decodeGroup9
  split
  · next hn => exact ⟨rfl, wordXYN_fields w hop (congrArg Fin.val hn)⟩
  · next hn => exact ⟨rfl, .inr (.inl ⟨Fin.ext hop, hn⟩)⟩

theorem decodeGroupE_describes (hop : (fieldOp w).val = 0xE) : (decodeGroupE w).Describes w := by
  unfold decodeGroupE
  split
  case h_3 => exact ⟨rfl, .inr (.inr (.inl ⟨Fin.ext hop, by rw [mem_toNat]; simp_all⟩))⟩
  all_goals next hnn => exact ⟨rfl, wordXNN_code hop hnn⟩

theorem decodeGroupF_describes (hop : (fieldOp w).val = 0xF) : (decodeGroupF w).Describes w := by
  unfold decodeGroupF
  split
  case h_10 => exact ⟨rfl, .inr (.inr (.inr ⟨Fin.ext hop, by rw [mem_toNat]; simp_all⟩))⟩
  all_goals next hnn => exact ⟨rfl, wordXNN_code hop hnn⟩

/-- Everything the decoder can answer, group by group (R85). -/
theorem decode_describes (w : Word) : (decode w).Describes w := by
  have hlt := (fieldOp w).isLt
  unfold decode
  split
  case h_1 hop => exact decodeGroup0_describes hop
  case h_6 hop => exact decodeGroup5_describes hop
  case h_9 hop => exact decodeGroup8_describes hop
  case h_10 hop => exact decodeGroup9_describes hop
  case h_15 hop => exact decodeGroupE_describes hop
  case h_16 => exact decodeGroupF_describes (by grind)
  case h_14 hop => exact ⟨rfl, wordXYN_fields w hop rfl⟩
  case h_2 hop | h_3 hop | h_11 hop | h_12 hop => exact ⟨rfl, wordNNN_fields w hop⟩
  all_goals next hop => exact ⟨rfl, wordXNN_fields w hop⟩

end Groups

/-- Settles O2: what `decode_describes` says of an instruction. -/
theorem decodeThenEncode : Obligations.DecodeThenEncode := by
  intro w i hdecode
  have h := decode_describes w
  rwa [hdecode] at h

/-- Settles O4: each class is answered by name, and an answer is true of the word. -/
theorem reservedWordsClassified : Obligations.ReservedWordsClassified := by
  intro w
  have hdescribes := decode_describes w
  refine ⟨⟨fun h => ?_, fun ⟨hop, hn⟩ => Machine.decode_malformed hop hn⟩, ⟨fun h => ?_, decode_unrecognized⟩, ?_⟩
  · rw [h] at hdescribes; exact hdescribes.2
  · rw [h] at hdescribes; exact hdescribes.2
  · cases h : decode w with
    | instr i => exact .inl ⟨i, rfl⟩
    | unrecognized w' => rw [h] at hdescribes; rw [hdescribes.1]; exact .inr (.inl rfl)
    | malformed w' => rw [h] at hdescribes; rw [hdescribes.1]; exact .inr (.inr rfl)

/-! ## The rows of the table (R86) -/

/-- The instruction of the row of `i` with its operands read from a word. -/
def Instr.withFields (i : Instr) (w : Word) : Instr :=
  match i with
  | .cls => .cls
  | .ret => .ret
  | .sys _ => .sys (fieldNNN w)
  | .jp _ => .jp (fieldNNN w)
  | .call _ => .call (fieldNNN w)
  | .seImm _ _ => .seImm (fieldX w) (fieldNN w)
  | .sneImm _ _ => .sneImm (fieldX w) (fieldNN w)
  | .seReg _ _ => .seReg (fieldX w) (fieldY w)
  | .ldImm _ _ => .ldImm (fieldX w) (fieldNN w)
  | .addImm _ _ => .addImm (fieldX w) (fieldNN w)
  | .ldReg _ _ => .ldReg (fieldX w) (fieldY w)
  | .orReg _ _ => .orReg (fieldX w) (fieldY w)
  | .andReg _ _ => .andReg (fieldX w) (fieldY w)
  | .xorReg _ _ => .xorReg (fieldX w) (fieldY w)
  | .addReg _ _ => .addReg (fieldX w) (fieldY w)
  | .sub _ _ => .sub (fieldX w) (fieldY w)
  | .shr _ _ => .shr (fieldX w) (fieldY w)
  | .subn _ _ => .subn (fieldX w) (fieldY w)
  | .shl _ _ => .shl (fieldX w) (fieldY w)
  | .sneReg _ _ => .sneReg (fieldX w) (fieldY w)
  | .ldI _ => .ldI (fieldNNN w)
  | .jpV0 _ => .jpV0 (fieldNNN w)
  | .rnd _ _ => .rnd (fieldX w) (fieldNN w)
  | .drw _ _ _ => .drw (fieldX w) (fieldY w) (fieldN w)
  | .skp _ => .skp (fieldX w)
  | .sknp _ => .sknp (fieldX w)
  | .ldVxDt _ => .ldVxDt (fieldX w)
  | .ldVxK _ => .ldVxK (fieldX w)
  | .ldDtVx _ => .ldDtVx (fieldX w)
  | .ldStVx _ => .ldStVx (fieldX w)
  | .addI _ => .addI (fieldX w)
  | .ldF _ => .ldF (fieldX w)
  | .ldB _ => .ldB (fieldX w)
  | .storeRegs _ => .storeRegs (fieldX w)
  | .loadRegs _ => .loadRegs (fieldX w)

/-- The row of SYS, the one row that the decoder tries after two others (R87). -/
def sysRow : OpcodeRow := ⟨0x0000, 0xF000⟩

section Rows

variable {w : Word} {i : Instr}

@[simp] theorem withFields_row (i : Instr) (w : Word) : (i.withFields w).row = i.row := by cases i <;> rfl

theorem fields_of_and_F00F {k : Word} (h : w &&& 0xF00F = k) :
    (fieldOp w).val = k.toNat / 4096 ∧ (fieldN w).val = k.toNat % 4096 := by
  have hk := (and_F00F w k).1 h
  have hn := (fieldN w).isLt
  omega

theorem fields_of_and_F0FF {k : Word} (h : w &&& 0xF0FF = k) :
    (fieldOp w).val = k.toNat / 4096 ∧ (fieldNN w).toNat = k.toNat % 4096 := by
  have hk := (and_F0FF w k).1 h
  have hnn := (fieldNN w).isLt
  omega

theorem eq_of_and_FFFF {k : Word} (h : w &&& 0xFFFF = k) : w = k := BitVec.and_allOnes.symm.trans h

/-- R86: a word that selects a row is the word of the row's instruction with its own fields as operands. -/
theorem encode_withFields (h : w &&& i.row.mask = i.row.pat) : encode (i.withFields w) = w := by
  cases i with
  | cls | ret => exact (eq_of_and_FFFF h).symm
  | sys | jp | call | ldI | jpV0 =>
    dsimp only [Instr.row] at h
    exact wordNNN_fields w (Machine.fieldOp_of_and_F000 h)
  | seImm | sneImm | ldImm | addImm | rnd =>
    dsimp only [Instr.row] at h
    exact wordXNN_fields w (Machine.fieldOp_of_and_F000 h)
  | drw =>
    dsimp only [Instr.row] at h
    exact wordXYN_fields w (Machine.fieldOp_of_and_F000 h) rfl
  | seReg | sneReg | ldReg | orReg | andReg | xorReg | addReg | sub | shr | subn | shl =>
    dsimp only [Instr.row] at h
    obtain ⟨hop, hn⟩ := fields_of_and_F00F h
    exact wordXYN_fields w hop hn
  | skp | sknp | ldVxDt | ldVxK | ldDtVx | ldStVx | addI | ldF | ldB | storeRegs | loadRegs =>
    dsimp only [Instr.row] at h
    obtain ⟨hop, hnn⟩ := fields_of_and_F0FF h
    exact wordXNN_code hop hnn

/-- R86, R87: a word that selects a row decodes to the row's instruction with its own fields as operands; the row of SYS comes
after two words. -/
theorem decode_of_selects (i : Instr) (h : w &&& i.row.mask = i.row.pat)
    (hsys : i.row = sysRow → w ≠ 0x00E0 ∧ w ≠ 0x00EE) : decode w = .instr (i.withFields w) := by
  have hencode := encode_withFields h
  have hwf : (i.withFields w).wellFormed = true := by
    cases i with
    | sys => exact (sys_wellFormed_iff _).2 (hencode.symm ▸ hsys rfl)
    | _ => rfl
  rw [← decode_encode _ hwf, hencode]

open Laws.EncodedRow in
/-- R86: the word of an instruction selects its row (the family EncodedRow, put together). -/
theorem encode_selects (i : Instr) : encode i &&& i.row.mask = i.row.pat :=
  match i with
  | .cls => cls | .ret => ret
  | .sys nnn => sys nnn | .jp nnn => jp nnn | .call nnn => call nnn | .ldI nnn => ldI nnn | .jpV0 nnn => jpV0 nnn
  | .seImm x nn => seImm x nn | .sneImm x nn => sneImm x nn | .ldImm x nn => ldImm x nn
  | .addImm x nn => addImm x nn | .rnd x nn => rnd x nn
  | .seReg x y => seReg x y | .sneReg x y => sneReg x y | .ldReg x y => ldReg x y
  | .orReg x y => orReg x y | .andReg x y => andReg x y | .xorReg x y => xorReg x y
  | .addReg x y => addReg x y | .sub x y => sub x y | .shr x y => shr x y | .subn x y => subn x y | .shl x y => shl x y
  | .drw x y n => drw x y n
  | .skp x => skp x | .sknp x => sknp x | .ldVxDt x => ldVxDt x | .ldVxK x => ldVxK x | .ldDtVx x => ldDtVx x
  | .ldStVx x => ldStVx x | .addI x => addI x | .ldF x => ldF x | .ldB x => ldB x
  | .storeRegs x => storeRegs x | .loadRegs x => loadRegs x

/-- SYS is alone in its row. -/
theorem sys_of_row (h : i.row = sysRow) : ∃ nnn, i = .sys nnn := by
  cases i with
  | sys nnn => exact ⟨nnn, rfl⟩
  | _ => simp [Instr.row, sysRow] at h

end Rows

/-- Settles O3: an instruction's word selects its row, and a word that selects a row decodes to an instruction of it. -/
theorem dispatchTableIsExact : Obligations.DispatchTableIsExact := by
  intro w j
  constructor
  · rintro ⟨i, hdecode, hrow⟩
    obtain ⟨hwf, hencode⟩ := decodeThenEncode w i hdecode
    rw [← hrow, ← hencode]
    refine ⟨encode_selects i, fun hsys => ?_⟩
    obtain ⟨nnn, rfl⟩ := sys_of_row hsys
    exact (sys_wellFormed_iff nnn).1 hwf
  · rintro ⟨hselects, hsys⟩
    exact ⟨j.withFields w, decode_of_selects j hselects hsys, withFields_row j w⟩

/-- Settles O5: each of the words is the word of the instruction it stands for. -/
theorem writtenOutWordsDecode : Obligations.WrittenOutWordsDecode :=
  ⟨decode_encode .cls rfl, decode_encode (.jp 0xABC) rfl, decode_encode (.addReg 3 5) rfl, decode_encode (.ldI 0x2F0) rfl,
    decode_encode (.drw 0 1 5) rfl, decode_encode (.skp 1) rfl, decode_encode (.loadRegs 2) rfl⟩

end Sys2Proof

namespace Sys2Proof.Machine

/-! ## What a step reports and when it halts (R95, R96, R270-R272) -/

section Steps

variable {i : Instr} {s t : State} {c : Terminal}

theorem active_eq_false_iff (s : State) : s.active = false ↔ s.status ≠ .running ∨ s.paused = true := by
  rw [← Bool.not_eq_true, active_iff, not_and_or, Bool.not_eq_false]

/-- Unless a step fetched a malformed word, its report is read off the status it left. -/
theorem stepReport_of_not_malformed (hactive : s.active = true) (h : step s = .next t)
    (hword : ∀ w w', s.fetch = some w → decode w ≠ .malformed w') : stepReport s = terminalReport s t.status := by
  have hstate : stepState s = t := by rw [stepState, h, outcomeState]
  rw [stepReport, if_pos hactive, fetchedReport, hstate]
  split
  · next w' hmalformed =>
    obtain ⟨w, hfetch, hdecode⟩ := Option.map_eq_some_iff.1 hmalformed
    exact absurd hdecode (hword w w' hfetch)
  · rfl

/-- R272, R276, R277: an instruction that halts the machine raises a condition of the stack, and nothing else is left of it. -/
theorem exec_halts (hrunning : s.status = .running) (h : exec i s = .next t) (hhalted : t.status = .halted c) :
    t = s.raise c ∧ c ≠ .overrun := by
  have hchanged : t.status ≠ s.status := by rw [hhalted, hrunning]; exact Status.noConfusion
  obtain rfl | ⟨nnn, rfl⟩ := exec_status h hchanged
  · rcases List.eq_nil_or_concat s.stack with hstack | ⟨l, a, hstack⟩
    · rw [exec_ret_empty hstack] at h; cases h; cases hhalted
      exact ⟨rfl, Terminal.noConfusion⟩
    · rw [List.concat_eq_append] at hstack
      rw [exec_ret_append hstack] at h; cases h
      exact absurd rfl hchanged
  · by_cases hfull : s.stack.length = s.cfg.stackDepth
    · rw [exec_call_full nnn hfull] at h; cases h; cases hhalted
      exact ⟨rfl, Terminal.noConfusion⟩
    · rw [exec_call_room nnn hfull] at h; cases h
      exact absurd rfl hchanged

/-- Everything a step of a running machine that halts it can be: a fetch above 0xFFE (R91), or an instruction that raises a
condition of the stack (R276, R277). -/
theorem step_halts (hrunning : s.status = .running) (h : step s = .next t) (hhalted : t.status = .halted c) :
    s.active = true ∧ t = s.raise c ∧
      ((c = .overrun ∧ s.fetch = none) ∨ (c ≠ .overrun ∧ ∃ w i, s.fetch = some w ∧ decode w = .instr i)) := by
  have hchanged : t.status ≠ s.status := by rw [hhalted, hrunning]; exact Status.noConfusion
  rcases step_cases h with ⟨-, rfl⟩ | ⟨hactive, hfetch, rfl⟩ | ⟨w, hactive, hfetch, hword⟩
  · exact absurd rfl hchanged
  · cases hhalted
    exact ⟨hactive, rfl, .inl ⟨rfl, hfetch⟩⟩
  · rcases hword with ⟨i, hdecode, hexec⟩ | ⟨-, rfl⟩ | ⟨-, rfl⟩
    · obtain ⟨ht, hc⟩ := exec_halts hrunning hexec hhalted
      exact ⟨hactive, ht, .inr ⟨hc, w, i, hfetch, hdecode⟩⟩
    · exact absurd rfl hchanged
    · exact absurd rfl hchanged

end Steps

/-- Settles O10: `step_halts` leaves no halting step that wrote anything or fetched a malformed word. -/
theorem terminalConditionIsPrecise : Obligations.TerminalConditionIsPrecise := by
  intro s t c hrunning h hhalted
  obtain ⟨hactive, ht, hcause⟩ := step_halts hrunning h hhalted
  refine ⟨ht, ?_⟩
  rw [stepReport_of_not_malformed hactive h, hhalted, terminalReport]
  intro w w' hfetch
  rcases hcause with ⟨-, hnone⟩ | ⟨-, w₁, i, hfetch₁, hdecode⟩
  · rw [hnone] at hfetch; cases hfetch
  · cases hfetch₁.symm.trans hfetch
    rw [hdecode]; exact Decoded.noConfusion

/-- Settles O8: above 0xFFE nothing is fetched, and by `step_halts` only then a step halts with Overrun. -/
theorem overrunOnlyAtFetch : Obligations.OverrunOnlyAtFetch := by
  intro s hrunning hunpaused
  have hactive := (active_iff s).2 ⟨hrunning, hunpaused⟩
  constructor
  · intro hpc
    have hstep := step_of_overrun hactive ((fetch_eq_none s).2 hpc)
    obtain ⟨-, hreport⟩ := terminalConditionIsPrecise s _ .overrun hrunning hstep rfl
    exact ⟨hstep, hreport⟩
  · intro hpc t h hhalted
    obtain ⟨-, -, ⟨-, hnone⟩ | ⟨hc, -⟩⟩ := step_halts hrunning h hhalted
    · exact absurd ((fetch_eq_none s).1 hnone) (Nat.not_lt.2 hpc)
    · exact hc rfl

/-- Settles O12: the decoder answers for the class by name (`decode_unrecognized`), and the step leaves the status running. -/
theorem unrecognizedWordIsSilentNoOp : Obligations.UnrecognizedWordIsSilentNoOp := by
  intro s w hrunning hunpaused hfetch hword
  have hactive := (active_iff s).2 ⟨hrunning, hunpaused⟩
  have hdecode := decode_unrecognized hword
  have hstep : step s = .next s.advance := by
    rw [step_of_fetch hactive hfetch, hdecode, execDecoded, execUnrecognized]
  refine ⟨hstep, ?_⟩
  rw [stepReport_of_not_malformed hactive hstep, State.advance_status, hrunning, terminalReport]
  intro w₁ w' hfetch₁
  cases hfetch.symm.trans hfetch₁
  rw [hdecode]; exact Decoded.noConfusion

/-- Settles O7: the machine is not active. -/
theorem inactiveStepChangesNothing : Obligations.InactiveStepChangesNothing := by
  intro s h
  have hinactive := (active_eq_false_iff s).2 h
  exact ⟨step_of_inactive hinactive, by simp [stepReport, hinactive]⟩

/-! ## Where `pc` goes (R93, R130) -/

/-- R93, R130: a skip on top of the provisional advance. -/
theorem State.advance_skipIf (s : State) (skip : Bool) :
    s.advance.skipIf skip = { s with pc := if skip then s.pc + 4 else s.pc + 2 } := by
  cases skip with
  | false => rfl
  | true => exact congrArg s.setPc (BitVec.add_assoc s.pc 2 2)

theorem State.advance_skipIf_pc (s : State) (skip : Bool) :
    (s.advance.skipIf skip).pc = s.pc + 2 ∨ (s.advance.skipIf skip).pc = s.pc + 4 := by
  rw [advance_skipIf]
  cases skip with
  | false => exact .inl rfl
  | true => exact .inr rfl

/-- Settles O48: the skips are two advances at most, the transfers are named, and Fx0A waits or goes on. -/
theorem pcAdvances : Obligations.PcAdvances := by
  intro i s t h
  cases i with
  | seImm x nn | sneImm x nn => cases h; exact (State.advance_skipIf_pc s _).imp id fun hpc => .inl ⟨hpc, x, x, nn, by simp⟩
  | seReg x y | sneReg x y => cases h; exact (State.advance_skipIf_pc s _).imp id fun hpc => .inl ⟨hpc, x, y, 0, by simp⟩
  | skp x | sknp x => cases h; exact (State.advance_skipIf_pc s _).imp id fun hpc => .inl ⟨hpc, x, x, 0, by simp⟩
  | ret => exact .inr (.inr (.inl (.inl rfl)))
  | jp nnn | call nnn | jpV0 nnn => exact .inr (.inr (.inl (.inr ⟨nnn, by simp⟩)))
  | ldVxK x =>
    rcases exec_ldVxK_cases h with ⟨-, rfl⟩ | ⟨k, -, rfl⟩
    · exact .inr (.inr (.inr ⟨rfl, x, rfl⟩))
    · rw [takeKey_eq]; exact .inl rfl
  | storeRegs x => cases h; rw [State.blockIndex_eq, State.storeBlock_fields]; exact .inl rfl
  | loadRegs x => cases h; rw [State.blockIndex_eq, State.loadBlock_fields]; exact .inl rfl
  | _ => cases h; exact .inl rfl

/-- Settles O24: the two rows of the table and the reserved words beside them, and one skip under opposite conditions. -/
theorem skipsOnRegister : Obligations.SkipsOnRegister := by
  refine ⟨fun w h => decode_of_selects (.seReg 0 0) h (by simp [Instr.row, sysRow]), fun w => decode_malformed,
    fun w h => decode_of_selects (.sneReg 0 0) h (by simp [Instr.row, sysRow]),
    fun w hop hn => decode_unrecognized (.inr (.inl ⟨hop, hn⟩)), fun x y s => ⟨?_, ?_⟩⟩
  · rw [exec, execSeReg, State.advance_skipIf]
    simp [State.readV]
  · rw [exec, execSneReg, State.advance_skipIf]
    simp [State.readV]

end Sys2Proof.Machine

/-! # Proofs: the family 40_flow.md -/

namespace Sys2Proof.Machine

/-- Settles O18: group 0 beside its two other words, and the meaning of SYS is the provisional advance alone. -/
theorem sysIsNoOp : Obligations.SysIsNoOp :=
  ⟨fun _ h hcls hret => decode_of_selects (.sys 0) h fun _ => ⟨hcls, hret⟩, fun _ _ => rfl⟩

/-- Settles O20: the target is `nnn` widened to 16 bits, whatever the provisional `pc` was. -/
theorem jumpSetsPc : Obligations.JumpSetsPc :=
  ⟨fun _ h => decode_of_selects (.jp 0) h (by simp [Instr.row, sysRow]),
    fun nnn s => ⟨s.setPc (addrOf nnn), rfl, addrOf_toNat nnn, rfl⟩⟩

/-- Settles O23: the two rows of the table, and one skip under opposite conditions. -/
theorem skipsOnImmediate : Obligations.SkipsOnImmediate := by
  refine ⟨fun w h => decode_of_selects (.seImm 0 0) h (by simp [Instr.row, sysRow]),
    fun w h => decode_of_selects (.sneImm 0 0) h (by simp [Instr.row, sysRow]), fun x nn s => ⟨?_, ?_⟩⟩
  · rw [exec, execSeImm, State.advance_skipIf]
    simp [State.readV]
  · rw [exec, execSneImm, State.advance_skipIf]
    simp [State.readV]

/-- R128: a 12-bit address plus a byte is below 2^16, so the sum of the two words does not wrap. -/
theorem addrOf_add_zext16_toNat (nnn : Imm12) (b : Byte) : (addrOf nnn + zext16 b).toNat = nnn.toNat + b.toNat := by
  have hb : (zext16 b).toNat = b.toNat := BitVec.toNat_setWidth_of_le (by decide)
  have := nnn.isLt
  have := b.isLt
  rw [BitVec.toNat_add, addrOf_toNat, hb]; omega

/-- Settles O25: the target is the sum of the two widened operands, which does not wrap. -/
theorem computedJumpAddsV0 : Obligations.ComputedJumpAddsV0 :=
  ⟨fun _ h => decode_of_selects (.jpV0 0) h (by simp [Instr.row, sysRow]),
    fun nnn s => ⟨s.setPc (addrOf nnn + zext16 (s.readV 0)), rfl, addrOf_add_zext16_toNat nnn _, rfl⟩⟩

end Sys2Proof.Machine

/-! # Proofs: the family 41_alu.md -/

namespace Sys2Proof.Machine

/-- R93, R150: an ALU instruction that writes no flag changes `pc` and one register, VF only when it is the destination. -/
theorem next_advance_writeV (s : State) (x : Reg) (b : Byte) :
    (.next (s.advance.writeV x b) : Host.Outcome State Fault Refusal) =
      .next { s with pc := s.pc + 2, v := s.v.set x b } := rfl

/-- Settles O26: the two rows of the table, and one register write after the advance; the byte that ADD writes is the sum
modulo 256. -/
theorem immediateLoadAndAdd : Obligations.ImmediateLoadAndAdd := by
  refine ⟨fun w h => decode_of_selects (.ldImm 0 0) h (by simp [Instr.row, sysRow]),
    fun w h => decode_of_selects (.addImm 0 0) h (by simp [Instr.row, sysRow]),
    fun x nn s => ⟨next_advance_writeV s x nn, _, rfl, ?_, fun r hr => ?_, rfl⟩⟩
  · rw [State.v_eq_readV, State.readV_writeV_same]
    exact BitVec.toNat_ofNat _ 8
  · exact State.readV_writeV_other _ _ hr

/-- Settles O27: the four rows of the table, and one register write after the advance. -/
theorem assignAndLogic : Obligations.AssignAndLogic :=
  ⟨fun _ h => decode_of_selects (.ldReg 0 0) h (by simp [Instr.row, sysRow]),
    fun _ h => decode_of_selects (.orReg 0 0) h (by simp [Instr.row, sysRow]),
    fun _ h => decode_of_selects (.andReg 0 0) h (by simp [Instr.row, sysRow]),
    fun _ h => decode_of_selects (.xorReg 0 0) h (by simp [Instr.row, sysRow]),
    fun x y s => ⟨next_advance_writeV s x (s.readV y), next_advance_writeV s x (s.readV x ||| s.readV y),
      next_advance_writeV s x (s.readV x &&& s.readV y), next_advance_writeV s x (s.readV x ^^^ s.readV y)⟩⟩

end Sys2Proof.Machine

/-! # Proofs: the family 42_index_memory.md -/

namespace Sys2Proof.Machine

/-! ## The index register (R191, R192, R193) -/

/-- R191, R192, R193: a writer of `I` changes `pc` and `I`, and no flag. -/
theorem next_advance_setIndex (s : State) (w : Word) :
    (.next (s.advance.setIndex w) : Host.Outcome State Fault Refusal) = .next { s with pc := s.pc + 2, index := w } := rfl

/-- R193: five times a byte is below 2^16, so the address of a glyph does not wrap. -/
theorem ofNat_mul_five_toNat (b : Byte) : (BitVec.ofNat 16 (b.toNat * 5)).toNat = b.toNat * 5 := by
  have := b.isLt
  exact (BitVec.toNat_ofNat _ 16).trans (Nat.mod_eq_of_lt (by omega))

/-- Settles O32: the three rows of the table, and one write of `I` after the advance. -/
theorem indexRegisterWrites : Obligations.IndexRegisterWrites :=
  ⟨fun _ h => decode_of_selects (.ldI 0) h (by simp [Instr.row, sysRow]),
    fun _ h => decode_of_selects (.addI 0) h (by simp [Instr.row, sysRow]),
    fun _ h => decode_of_selects (.ldF 0) h (by simp [Instr.row, sysRow]),
    fun s => ⟨fun nnn => ⟨_, next_advance_setIndex s _, addrOf_toNat nnn, rfl⟩,
      fun _ => ⟨_, next_advance_setIndex s _, BitVec.toNat_ofNat _ 16, rfl⟩,
      fun x => ⟨_, next_advance_setIndex s _, ofNat_mul_five_toNat (s.readV x), rfl⟩⟩⟩

/-! ## The decimal digits (R194) -/

theorem hundreds_toNat (b : Byte) : (hundreds b).toNat = b.toNat / 100 := by
  have := b.isLt
  exact (BitVec.toNat_ofNat _ 8).trans (Nat.mod_eq_of_lt (by omega))

theorem tens_toNat (b : Byte) : (tens b).toNat = b.toNat / 10 % 10 :=
  (BitVec.toNat_ofNat _ 8).trans (Nat.mod_eq_of_lt (by omega))

theorem ones_toNat (b : Byte) : (ones b).toNat = b.toNat % 10 :=
  (BitVec.toNat_ofNat _ 8).trans (Nat.mod_eq_of_lt (by omega))

/-- R194: LD B, Vx leaves every byte outside the three alone. -/
theorem exec_ldB_readMem_other {x : Reg} {s t : State} {a : Nat} (h : exec (.ldB x) s = .next t)
    (ha : ∀ k < 3, a % 4096 ≠ (s.index.toNat + k) % 4096) : t.readMem a = s.readMem a := by
  cases h
  calc
    _ = _ := State.readMem_writeMem_other _ (s.indexed 2) a _ (ha 2 (by decide))
    _ = _ := State.readMem_writeMem_other _ (s.indexed 1) a _ (ha 1 (by decide))
    _ = s.advance.readMem a := State.readMem_writeMem_other _ (s.indexed 0) a _ (ha 0 (by decide))

/-- Settles O33: the bytes that LD B stores are the three digits, and it stores no other byte. -/
theorem decimalDigitsStored : Obligations.DecimalDigitsStored := by
  refine ⟨fun w h => decode_of_selects (.ldB 0) h (by simp [Instr.row, sysRow]), fun x s => ⟨_, rfl, ?_⟩⟩
  obtain ⟨hhundreds, htens, hones⟩ := exec_ldB_readMem (x := x) (s := s) rfl
  rw [hhundreds, htens, hones]
  exact ⟨hundreds_toNat _, tens_toNat _, ones_toNat _, fun a ha => exec_ldB_readMem_other rfl ha, rfl⟩

/-! ## The register blocks (R195, R196) -/

/-- R195, R196: `I` after a block access, as BLOCK_INCREMENTS_I says. -/
theorem State.blockIndex_index_toNat (s : State) (x : Reg) : (s.blockIndex x).index.toNat =
    if s.cfg.blockIncrementsI then (s.index.toNat + x.val + 1) % 65536 else s.index.toNat := by
  rw [blockIndex_eq, apply_ite BitVec.toNat, BitVec.toNat_ofNat]

/-- Settles O34: the store puts each register at its address, moves `I` last, and writes nothing else but `pc`. -/
theorem registerBlockStored : Obligations.RegisterBlockStored := by
  refine ⟨fun w h => decode_of_selects (.storeRegs 0) h (by simp [Instr.row, sysRow]),
    fun x s => ⟨_, rfl, fun r hr => exec_storeRegs_readMem rfl hr, fun a ha => ?_, ?_, ?_⟩⟩
  · rw [State.blockIndex_readMem]
    exact s.advance.storeBlock_other x a ha
  · rw [State.storeBlock_fields]
    exact State.blockIndex_index_toNat _ x
  · rw [State.blockIndex_eq, State.storeBlock_fields]; rfl

/-- R196: a register after LD Vx, [I]. -/
theorem exec_loadRegs_readV {x : Reg} {s t : State} (h : exec (.loadRegs x) s = .next t) (r : Reg) :
    t.readV r = if r ≤ x then s.readMem (s.index.toNat + r.val) else s.readV r := by
  cases h
  rw [State.blockIndex_readV]
  exact s.advance.loadBlock_readV x r

/-- Settles O35: the load fills the registers up to `Vx`, moves `I` last, and writes nothing else but `pc`. -/
theorem registerBlockLoaded : Obligations.RegisterBlockLoaded := by
  refine ⟨fun w h => decode_of_selects (.loadRegs 0) h (by simp [Instr.row, sysRow]),
    fun x s => ⟨_, rfl, fun r hr => ?_, fun r hr => ?_, ?_, ?_⟩⟩
  · exact (exec_loadRegs_readV rfl r).trans (if_pos hr)
  · exact (exec_loadRegs_readV rfl r).trans (if_neg (Fin.not_le.2 hr))
  · rw [State.loadBlock_fields]
    exact State.blockIndex_index_toNat _ x
  · rw [State.blockIndex_eq, State.loadBlock_fields]; rfl

end Sys2Proof.Machine

/-! # Proofs: the family 43_display.md -/

namespace Sys2Proof.Machine

/-- Settles O37: the fixed word, and every bit of the display that CLS leaves is 0. -/
theorem clearDisplay : Obligations.ClearDisplay :=
  ⟨rfl, fun s => ⟨s.advance.setDisp 0, rfl, fun _ _ => BitVec.getLsbD_zero, rfl⟩⟩

/-! ## Pixels of the display (R34, R220) -/

/-- The pixel (column, row) is on the display (R220). -/
def OnDisplay (p : Nat × Nat) : Prop := p.1 < 64 ∧ p.2 < 32

/-- The pixels are all that a display is. -/
theorem disp_ext {d e : BitVec 2048} (h : ∀ xx < 64, ∀ yy < 32, pix d xx yy = pix e xx yy) : d = e := by
  apply BitVec.eq_of_getLsbD_eq
  intro j hj
  have hplace : pixIndex (j % 64) (j / 64) = j := by unfold pixIndex; omega
  have hpix := h (j % 64) (by omega) (j / 64) (by omega)
  rwa [pix, pix, hplace] at hpix

/-- A flip leaves every other pixel alone. -/
theorem pix_flipPix_other (d : BitVec 2048) {p q : Nat × Nat} (hp : OnDisplay p) (hq : OnDisplay q) (hne : q ≠ p) :
    pix (flipPix d p.1 p.2) q.1 q.2 = pix d q.1 q.2 := by
  rw [pix_flipPix d hp.1 hq.1 hq.2, decide_eq_false fun e => hne (Prod.ext e.1 e.2), Bool.xor_false]

/-- A flip turns a lit pixel off or an unlit one on. -/
theorem litPixels_flipPix (d : BitVec 2048) {p : Nat × Nat} (hp : OnDisplay p) :
    litPixels (flipPix d p.1 p.2) + 2 * (pix d p.1 p.2).toNat = litPixels d + 1 := by
  have hlt : pixIndex p.1 p.2 < 2048 := by obtain ⟨hx, hy⟩ := hp; unfold pixIndex; omega
  have hplaces := List.perm_cons_erase (List.mem_range.2 hlt)
  have hrest : ((List.range 2048).erase (pixIndex p.1 p.2)).countP (fun j => (flipPix d p.1 p.2).getLsbD j) =
      ((List.range 2048).erase (pixIndex p.1 p.2)).countP (fun j => d.getLsbD j) := by
    refine List.countP_congr fun j hj => ?_
    have hne := (List.nodup_range.mem_erase_iff.1 hj).1
    simp [flipPix, BitVec.getLsbD_xor, BitVec.getLsbD_twoPow, hne.symm]
  have hat : (flipPix d p.1 p.2).getLsbD (pixIndex p.1 p.2) = !pix d p.1 p.2 :=
    (pix_flipPix d hp.1 hp.1 hp.2).trans (by simp)
  rw [litPixels, litPixels, hplaces.countP_eq, hplaces.countP_eq, List.countP_cons, List.countP_cons, hrest, hat, ← pix]
  cases pix d p.1 p.2 <;> simp

/-! ## Distinct pixels flipped in turn (R222) -/

/-- One XOR of a set sprite bit into the display: the pixel flipped, and whether a lit one has been so far. -/
def flipHit (acc : BitVec 2048 × Bool) (p : Nat × Nat) : BitVec 2048 × Bool :=
  (flipPix acc.1 p.1 p.2, acc.2 || pix acc.1 p.1 p.2)

section Flips

variable {l : List (Nat × Nat)} (hon : ∀ p ∈ l, OnDisplay p) (acc : BitVec 2048 × Bool)
include hon

theorem foldl_flipHit_pix (hnodup : l.Nodup) {q : Nat × Nat} (hq : OnDisplay q) :
    pix (l.foldl flipHit acc).1 q.1 q.2 = (pix acc.1 q.1 q.2 ^^ decide (q ∈ l)) := by
  induction l generalizing acc with
  | nil => simp
  | cons p l ih =>
    obtain ⟨hp, hl⟩ := List.forall_mem_cons.1 hon
    obtain ⟨hpl, hnodup⟩ := List.nodup_cons.1 hnodup
    rw [List.foldl_cons, ih hl _ hnodup]
    by_cases hqp : q = p
    · subst hqp
      simp [flipHit, pix_flipPix _ hq.1 hq.1 hq.2, hpl]
    · simp [flipHit, pix_flipPix_other _ hp hq hqp, hqp]

/-- A pixel of the rest of the list is not the one flipped first, so it is as it was. -/
theorem pix_flipHit_rest {p : Nat × Nat} (hp : OnDisplay p) (hpl : p ∉ l) {q : Nat × Nat} (hq : q ∈ l) :
    pix (flipHit acc p).1 q.1 q.2 = pix acc.1 q.1 q.2 :=
  pix_flipPix_other _ hp (hon q hq) fun e => hpl (e ▸ hq)

theorem foldl_flipHit_hit (hnodup : l.Nodup) :
    (l.foldl flipHit acc).2 = true ↔ acc.2 = true ∨ ∃ p ∈ l, pix acc.1 p.1 p.2 = true := by
  induction l generalizing acc with
  | nil => simp
  | cons p l ih =>
    obtain ⟨hp, hl⟩ := List.forall_mem_cons.1 hon
    obtain ⟨hpl, hnodup⟩ := List.nodup_cons.1 hnodup
    have hrest : (∃ q ∈ l, pix (flipHit acc p).1 q.1 q.2 = true) ↔ ∃ q ∈ l, pix acc.1 q.1 q.2 = true :=
      exists_congr fun q => and_congr_right fun hq => by rw [pix_flipHit_rest hl acc hp hpl hq]
    rw [List.foldl_cons, ih hl _ hnodup, hrest]
    simp [flipHit, or_assoc]

theorem foldl_flipHit_litPixels (hnodup : l.Nodup) :
    litPixels (l.foldl flipHit acc).1 + 2 * l.countP (fun p => pix acc.1 p.1 p.2) = litPixels acc.1 + l.length := by
  induction l generalizing acc with
  | nil => simp
  | cons p l ih =>
    obtain ⟨hp, hl⟩ := List.forall_mem_cons.1 hon
    obtain ⟨hpl, hnodup⟩ := List.nodup_cons.1 hnodup
    have hrest := ih hl (flipHit acc p) hnodup
    have hfirst : litPixels (flipHit acc p).1 + _ = _ := litPixels_flipPix acc.1 hp
    rw [List.countP_congr fun q hq => by rw [pix_flipHit_rest hl acc hp hpl hq]] at hrest
    rw [List.foldl_cons, List.countP_cons, List.length_cons]
    cases hlit : pix acc.1 p.1 p.2 <;> simp [hlit] at hfirst ⊢ <;> omega

end Flips

/-! ## The pixels of a sprite (R222) -/

namespace State

/-- The pixels on which the set bits of a sprite land, in the order in which they are drawn. -/
def spritePixels (s : State) (xs ys n : Nat) : List (Nat × Nat) :=
  ((spritePlaces n).filter fun p => s.spriteBit p.1 p.2).map fun p => ((xs + p.2) % 64, (ys + p.1) % 32)

variable (s : State) (xs ys : Nat) {n : Nat}

theorem mem_spritePlaces {p : Nat × Nat} : p ∈ spritePlaces n ↔ p.1 < n ∧ p.2 < 8 := by
  obtain ⟨r, c⟩ := p
  simp [spritePlaces]

theorem spritePlaces_nodup : (spritePlaces n).Nodup := List.nodup_range.product List.nodup_range

/-- The two nested loops of R222 flip the sprite's pixels in turn. -/
theorem drawSprite_eq : s.drawSprite xs ys n = (s.spritePixels xs ys n).foldl flipHit (s.disp, false) := by
  rw [spritePixels, List.foldl_map, List.foldl_filter, spritePlaces, List.foldl_flatMap]
  simp only [List.foldl_map]
  rfl

theorem mem_spritePixels {xx yy : Nat} : (xx, yy) ∈ s.spritePixels xs ys n ↔ s.SpriteCovers xs ys n xx yy := by
  simp only [spritePixels, List.mem_map, List.mem_filter, mem_spritePlaces, Prod.exists, Prod.mk.injEq, SpriteCovers]
  constructor
  · rintro ⟨r, c, ⟨⟨hr, hc⟩, hbit⟩, rfl, rfl⟩
    exact ⟨r, hr, c, hc, hbit, rfl, rfl⟩
  · rintro ⟨r, hr, c, hc, hbit, rfl, rfl⟩
    exact ⟨r, c, ⟨⟨hr, hc⟩, hbit⟩, rfl, rfl⟩

theorem spritePixels_onDisplay : ∀ p ∈ s.spritePixels xs ys n, OnDisplay p := by
  rintro ⟨xx, yy⟩ hp
  obtain ⟨r, -, c, -, -, rfl, rfl⟩ := (s.mem_spritePixels xs ys).1 hp
  exact ⟨Nat.mod_lt _ (by decide), Nat.mod_lt _ (by decide)⟩

/-- R222: one draw touches each pixel at most once. -/
theorem spritePixels_nodup (hn : n ≤ 32) : (s.spritePixels xs ys n).Nodup := by
  refine List.Nodup.map_on (fun p hp q hq heq => ?_) (spritePlaces_nodup.filter _)
  obtain ⟨hpr, hpc⟩ := mem_spritePlaces.1 (List.mem_filter.1 hp).1
  obtain ⟨hqr, hqc⟩ := mem_spritePlaces.1 (List.mem_filter.1 hq).1
  obtain ⟨hcol, hrow⟩ := Prod.mk.inj heq
  exact Prod.ext (by omega) (by omega)

theorem length_spritePixels : (s.spritePixels xs ys n).length = s.spriteBits n := by
  rw [spritePixels, List.length_map, spriteBits, List.countP_eq_length_filter]

theorem countP_spritePixels :
    (s.spritePixels xs ys n).countP (fun p => pix s.disp p.1 p.2) = s.spriteHits xs ys n := by
  rw [spritePixels, List.countP_map, List.countP_filter, spriteHits]
  exact List.countP_congr fun p _ => by simp [and_comm]

end State

/-! ## DRW (R222) -/

theorem flagByte_eq_one {c : Bool} : flagByte c = 1 ↔ c = true := by cases c <;> decide

theorem flagByte_eq_zero {c : Bool} : flagByte c = 0 ↔ c = false := by cases c <;> decide

section Drw

variable {x y : Reg} {n : Fin 16} {s t : State} (h : exec (.drw x y n) s = .next t)
include h

theorem exec_drw_disp : t.disp =
    ((s.spritePixels s.v[x].toNat s.v[y].toNat n.val).foldl flipHit (s.disp, false)).1 := by
  rw [← State.drawSprite_eq]; cases h; rfl

theorem exec_drw_flag : t.v[15] =
    flagByte ((s.spritePixels s.v[x].toNat s.v[y].toNat n.val).foldl flipHit (s.disp, false)).2 := by
  rw [← State.drawSprite_eq]; cases h
  exact State.readV_writeV_same _ flagReg _

/-- DRW writes neither memory nor `I`, so the sprite stays what it was. -/
theorem exec_drw_spriteCovers (xs ys : Nat) : t.SpriteCovers xs ys n.val = s.SpriteCovers xs ys n.val := by
  cases h; rfl

/-- R222: the XOR of the display and the sprite. -/
theorem exec_drw_pix {xx yy : Nat} (hx : xx < 64) (hy : yy < 32) : pix t.disp xx yy = true ↔
    ¬ (pix s.disp xx yy = true ↔ s.SpriteCovers s.v[x].toNat s.v[y].toNat n.val xx yy) := by
  have hpix := foldl_flipHit_pix (s.spritePixels_onDisplay _ _) (s.disp, false)
    (s.spritePixels_nodup s.v[x].toNat s.v[y].toNat (n := n.val) (by omega)) (q := (xx, yy)) ⟨hx, hy⟩
  rw [exec_drw_disp h, hpix, ← State.mem_spritePixels]
  rw [Bool.xor_iff_ne, ne_eq, Bool.eq_iff_iff, decide_eq_true_iff]

/-- R222: VF is 1 when a set bit landed on a lit pixel. -/
theorem exec_drw_collides : t.v[15] = 1 ↔ ∃ xx < 64, ∃ yy < 32,
    pix s.disp xx yy = true ∧ s.SpriteCovers s.v[x].toNat s.v[y].toNat n.val xx yy := by
  have hon := s.spritePixels_onDisplay s.v[x].toNat s.v[y].toNat (n := n.val)
  rw [exec_drw_flag h, flagByte_eq_one, foldl_flipHit_hit hon _ (s.spritePixels_nodup _ _ (by omega))]
  constructor
  · rintro (hfalse | ⟨⟨xx, yy⟩, hmem, hlit⟩)
    · cases hfalse
    obtain ⟨hx, hy⟩ := hon _ hmem
    exact ⟨xx, hx, yy, hy, hlit, (s.mem_spritePixels _ _).1 hmem⟩
  · rintro ⟨xx, -, yy, -, hlit, hcover⟩
    exact .inr ⟨(xx, yy), (s.mem_spritePixels _ _).2 hcover, hlit⟩

theorem exec_drw_flag_cases : t.v[15] = 0 ∨ t.v[15] = 1 := by
  rw [exec_drw_flag h, flagByte_eq_zero, flagByte_eq_one]
  exact (Bool.eq_false_or_eq_true _).symm

/-- R222: VF is 0 when every set bit landed on an unlit pixel. -/
theorem exec_drw_no_collision : t.v[15] = 0 ↔ ∀ xx < 64, ∀ yy < 32,
    pix s.disp xx yy = true → ¬ s.SpriteCovers s.v[x].toNat s.v[y].toNat n.val xx yy := by
  have hflag : t.v[15] = 0 ↔ ¬ t.v[15] = 1 := by
    rw [exec_drw_flag h, flagByte_eq_zero, flagByte_eq_one, Bool.not_eq_true]
  rw [hflag, exec_drw_collides h]
  simp only [not_exists, not_and]

end Drw

/-- Settles O38: the row of the table, and what DRW does to the pixels and to VF. -/
theorem spriteTogglesPixels : Obligations.SpriteTogglesPixels :=
  ⟨fun _ h => decode_of_selects (.drw 0 0 0) h (by simp [Instr.row, sysRow]),
    fun _ _ _ _ => ⟨_, rfl, fun _ hx _ hy => exec_drw_pix rfl hx hy, exec_drw_flag_cases rfl, exec_drw_collides rfl,
      fun _ hr => State.readV_writeV_other _ _ hr, rfl⟩⟩

/-- Settles O39: the second draw flips the same pixels again, and a covered pixel is lit in between exactly when it was unlit
before. -/
theorem spriteDrawnTwiceRestores : Obligations.SpriteDrawnTwiceRestores := by
  intro x y n s t u hfirst hx hy hsecond
  constructor
  · refine disp_ext fun xx hxx yy hyy => Bool.eq_iff_iff.2 ?_
    rw [exec_drw_pix hsecond hxx hyy, exec_drw_pix hfirst hxx hyy, exec_drw_spriteCovers hfirst, hx, hy]
    tauto
  · rw [exec_drw_collides hsecond, exec_drw_spriteCovers hfirst, hx, hy]
    refine exists_congr fun xx => and_congr_right fun hxx => exists_congr fun yy => and_congr_right fun hyy => ?_
    rw [exec_drw_pix hfirst hxx hyy, ← Bool.not_eq_true]
    tauto

/-- Settles O40: a collision is a pixel at which XOR and OR differ. -/
theorem noCollisionIsUnion : Obligations.NoCollisionIsUnion := by
  intro x y n s t h
  rw [exec_drw_no_collision h]
  constructor
  · intro hclear xx _ yy _ hlit
    rw [hclear] at hlit
    exact absurd hlit (by simp [pix])
  · refine forall₂_congr fun xx hxx => forall₂_congr fun yy hyy => ?_
    rw [exec_drw_pix h hxx hyy]
    tauto

/-- Settles O41: the balance of the flips, over the list of the sprite's pixels. -/
theorem litPixelsBalance : Obligations.LitPixelsBalance := by
  intro x y n s t h
  rw [exec_drw_disp h, ← s.countP_spritePixels, ← s.length_spritePixels s.v[x].toNat s.v[y].toNat]
  exact foldl_flipHit_litPixels (s.spritePixels_onDisplay _ _) (s.disp, false) (s.spritePixels_nodup _ _ (by omega))

end Sys2Proof.Machine

/-! # Proofs: the family 44_keypad_timers.md -/

namespace Sys2Proof.Machine

/-! ## The timers (R245, R246, R247) -/

/-- Settles O44: the three rows of the table, and one write of a register or of a timer after the advance. -/
theorem timerLoads : Obligations.TimerLoads :=
  ⟨fun _ h => decode_of_selects (.ldVxDt 0) h (by simp [Instr.row, sysRow]),
    fun _ h => decode_of_selects (.ldDtVx 0) h (by simp [Instr.row, sysRow]),
    fun _ h => decode_of_selects (.ldStVx 0) h (by simp [Instr.row, sysRow]),
    fun x s => ⟨next_advance_writeV s x s.dt, rfl, rfl⟩⟩

/-! ## The skips on a key (R241, R242) -/

section KeySkips

variable (x : Reg) (s : State)

theorem exec_skp_eq : exec (.skp x) s = .next { s with pc := if s.isPressed (s.readV x) then s.pc + 4 else s.pc + 2 } := by
  rw [exec, execSkp, State.advance_skipIf]

theorem exec_sknp_eq : exec (.sknp x) s = .next { s with pc := if s.isPressed (s.readV x) then s.pc + 2 else s.pc + 4 } := by
  rw [exec, execSknp, State.advance_skipIf]
  cases s.isPressed (s.readV x) <;> rfl

end KeySkips

/-- Settles O42: the two rows of the table, and one test of `V[x]` against the held keys with opposite outcomes. -/
theorem skipsOnKey : Obligations.SkipsOnKey := by
  refine ⟨fun w h => decode_of_selects (.skp 0) h (by simp [Instr.row, sysRow]),
    fun w h => decode_of_selects (.sknp 0) h (by simp [Instr.row, sysRow]), fun x s => ⟨?_, ?_⟩⟩
  · rintro ⟨k, hheld, hcode⟩
    have hpressed : s.isPressed (s.readV x) = true := (s.isPressed_iff _).2 ⟨k, s.mem_heldKeys.2 hheld, hcode⟩
    rw [exec_skp_eq, exec_sknp_eq, if_pos hpressed, if_pos hpressed]
    exact ⟨rfl, rfl⟩
  · intro hnone
    have hfree : ¬ s.isPressed (s.readV x) = true := fun hpressed => by
      obtain ⟨k, hheld, hcode⟩ := (s.isPressed_iff _).1 hpressed
      exact hnone k (s.mem_heldKeys.1 hheld) hcode
    rw [exec_skp_eq, exec_sknp_eq, if_neg hfree, if_neg hfree]
    exact ⟨rfl, rfl⟩

/-! ## The key wait (R243, R244) -/

theorem State.heldKeys_eq_nil_iff {s : State} : s.heldKeys = [] ↔ ∀ k : Key, s.keys[k] = false := by
  simp [List.eq_nil_iff_forall_not_mem, State.mem_heldKeys]

/-- R243: Fx0A with no key held waits at its own address. -/
theorem exec_ldVxK_wait {s : State} (x : Reg) (h : s.heldKeys = []) : exec (.ldVxK x) s = .next s := by
  rw [exec, execLdVxK, h]; rfl

/-- R243, R244: Fx0A with a key held takes one of the held keys. -/
theorem exec_ldVxK_take {s : State} (x : Reg) (h : s.heldKeys ≠ []) :
    ∃ k ∈ s.heldKeys, exec (.ldVxK x) s = .next (takeKey x k s.advance.nextDraw) := by
  obtain ⟨k, ks, hheld⟩ := List.exists_cons_of_ne_nil h
  refine ⟨s.drawnKey k ks, hheld ▸ pickKey_mem k ks _, ?_⟩
  rw [exec, execLdVxK, hheld]

/-- The code of a key, as the byte that Fx0A stores. -/
theorem ofNat_key_toNat (k : Key) : (BitVec.ofNat 8 k.val).toNat = k.val :=
  (BitVec.toNat_ofNat _ 8).trans (Nat.mod_eq_of_lt (by omega))

theorem takeKey_readV (x : Reg) (k : Key) (s : State) (r : Reg) :
    (takeKey x k s).readV r = if r = x then BitVec.ofNat 8 k.val else s.readV r := by
  rw [takeKey_eq]
  exact s.readV_writeV x r _

/-- R243: the keys held after one is taken. -/
theorem takeKey_keys (x : Reg) (k : Key) (s : State) (q : Key) :
    (takeKey x k s).keys[q] = (s.keys[q] && !(s.cfg.fx0aRemovesKey && decide (q = k))) := by
  rw [takeKey_eq]
  cases hremoves : s.cfg.fx0aRemovesKey with
  | false => simp
  | true =>
    by_cases hq : q = k
    · subst hq; simp
    · have hne : k.val ≠ q.val := fun e => hq (Fin.ext e.symm)
      simp [Vector.getElem_set_ne, hne, hq]

/-- Settles O43: with no key held the wait, else the key that `exec_ldVxK_take` gives, and what taking it writes. -/
theorem keyWait : Obligations.KeyWait := by
  refine ⟨fun w h => decode_of_selects (.ldVxK 0) h (by simp [Instr.row, sysRow]), fun x s => ⟨?_, ?_⟩⟩
  · intro hnone
    exact exec_ldVxK_wait x (State.heldKeys_eq_nil_iff.2 hnone)
  · rintro ⟨p, hp⟩
    obtain ⟨k, hk, hexec⟩ := exec_ldVxK_take x (List.ne_nil_of_mem (s.mem_heldKeys.2 hp))
    refine ⟨k, _, hexec, s.mem_heldKeys.1 hk, ?_, fun r hr => ?_, takeKey_keys x k _, ?_⟩
    · rw [State.v_eq_readV, takeKey_readV, if_pos rfl]
      exact ofNat_key_toNat k
    · rw [State.v_eq_readV, takeKey_readV, if_neg hr]; rfl
    · rw [takeKey_eq]; rfl

end Sys2Proof.Machine

/-! # Proofs: the family 60_exceptions.md -/

namespace Sys2Proof.Machine

/-! ## A step always returns (R291) -/

/-- No instruction's meaning ends in a fault or a refusal. -/
theorem exec_returns (i : Instr) (s : State) : ∃ t, exec i s = .next t := by
  cases i with
  | call nnn => exact ⟨_, s.commit_eq _⟩
  | ret => exact ⟨_, s.commit_eq _⟩
  | ldVxK x =>
    by_cases hnone : s.heldKeys = []
    · exact ⟨s, exec_ldVxK_wait x hnone⟩
    · obtain ⟨k, -, hexec⟩ := exec_ldVxK_take x hnone
      exact ⟨_, hexec⟩
  | _ => exact ⟨_, rfl⟩

theorem execDecoded_returns (d : Decoded) (s : State) : ∃ t, execDecoded d s = .next t := by
  cases d with
  | instr i => exact exec_returns i s
  | unrecognized w => exact ⟨s.advance, rfl⟩
  | malformed w => exact ⟨s.advance.countMalformed, rfl⟩

/-- Settles O9: an inactive step, a fetch that finds nothing, and a fetched word each leave a machine. -/
theorem stepAlwaysReturns : Obligations.StepAlwaysReturns := by
  intro s
  cases hactive : s.active with
  | false => exact ⟨s, step_of_inactive hactive⟩
  | true =>
    cases hfetch : s.fetch with
    | none => exact ⟨_, step_of_overrun hactive hfetch⟩
    | some w => rw [step_of_fetch hactive hfetch]; exact execDecoded_returns (decode w) s

/-! ## Which condition a step raises (R270-R277) -/

/-- What makes the next step raise a terminal condition: the fetch (R274), a call (R276) or a return (R277). -/
def State.Raises (s : State) : Terminal → Prop
  | .overrun => s.pc.toNat > 0xFFE
  | .stackOverflow => s.stack.length = s.cfg.stackDepth ∧ ∃ w nnn, s.fetch = some w ∧ decode w = .instr (.call nnn)
  | .stackUnderflow => s.stack = [] ∧ ∃ w, s.fetch = some w ∧ decode w = .instr .ret

section Raises

variable {i : Instr} {s t : State} {c : Terminal}

theorem exec_call_status {nnn : Imm12} (h : exec (.call nnn) s = .next t) :
    t.status = if s.stack.length = s.cfg.stackDepth then .halted .stackOverflow else s.status := by
  split
  · next hfull => rw [exec_call_full nnn hfull] at h; cases h; rfl
  · next hroom => rw [exec_call_room nnn hroom] at h; cases h; rfl

theorem exec_ret_status (h : exec .ret s = .next t) :
    t.status = if s.stack = [] then .halted .stackUnderflow else s.status := by
  split
  · next hempty => rw [exec_ret_empty hempty] at h; cases h; rfl
  · next hne => rw [exec_ret_append (List.dropLast_append_getLast hne).symm] at h; cases h; rfl

theorem step_of_raises (hactive : s.active = true) (h : s.Raises c) : step s = .next (s.raise c) := by
  cases c with
  | overrun => exact step_of_overrun hactive ((fetch_eq_none s).2 h)
  | stackOverflow =>
    obtain ⟨hfull, w, nnn, hfetch, hdecode⟩ := h
    rw [step_of_fetch hactive hfetch, hdecode]; exact exec_call_full nnn hfull
  | stackUnderflow =>
    obtain ⟨hempty, w, hfetch, hdecode⟩ := h
    rw [step_of_fetch hactive hfetch, hdecode]; exact exec_ret_empty hempty

/-- A fetched instruction that halts the machine is a call on a full stack or a return on an empty one. -/
theorem raises_of_exec {w : Word} (hrunning : s.status = .running) (hfetch : s.fetch = some w)
    (hdecode : decode w = .instr i) (h : exec i s = .next t) (hhalted : t.status = .halted c) : s.Raises c := by
  have hchanged : t.status ≠ s.status := by rw [hhalted, hrunning]; exact Status.noConfusion
  obtain rfl | ⟨nnn, rfl⟩ := exec_status h hchanged
  · have hstatus := exec_ret_status h
    split at hstatus
    · next hempty => cases hhalted.symm.trans hstatus; exact ⟨hempty, w, hfetch, hdecode⟩
    · exact absurd hstatus hchanged
  · have hstatus := exec_call_status h
    split at hstatus
    · next hfull => cases hhalted.symm.trans hstatus; exact ⟨hfull, w, nnn, hfetch, hdecode⟩
    · exact absurd hstatus hchanged

theorem raises_of_step (hrunning : s.status = .running) (h : step s = .next t) (hhalted : t.status = .halted c) :
    s.Raises c := by
  have hchanged : t.status ≠ s.status := by rw [hhalted, hrunning]; exact Status.noConfusion
  rcases step_cases h with ⟨-, rfl⟩ | ⟨-, hfetch, rfl⟩ | ⟨w, -, hfetch, ⟨i, hdecode, hexec⟩ | ⟨-, rfl⟩ | ⟨-, rfl⟩⟩
  · exact absurd rfl hchanged
  · cases hhalted; exact (fetch_eq_none s).1 hfetch
  · exact raises_of_exec hrunning hfetch hdecode hexec hhalted
  · exact absurd rfl hchanged
  · exact absurd rfl hchanged

end Raises

/-! ## What a step reports (R270, R271, R275) -/

/-- R270: the codes of the terminal conditions are 2 to 4. -/
theorem Terminal.code_le (c : Terminal) : c.code ≤ 4 := by cases c <;> decide

section Reports

variable {s : State} (hrunning : s.status = .running) (hunpaused : s.paused = false)
include hrunning hunpaused

theorem stepReport_of_malformed {w : Word} (hfetch : s.fetch = some w) (hdecode : decode w = .malformed w) :
    stepReport s = .malformed w s.pc := by
  obtain ⟨⟨hfields, -⟩, -⟩ := reservedWordsClassified w
  obtain ⟨hop, hn⟩ := hfields hdecode
  exact (malformedWordIsCountedNoOp s w hrunning hunpaused hfetch hop hn).2

/-- Everything a step of a running, unpaused machine can report: a malformed word (R275), a terminal condition (R272), or
Ok. -/
theorem stepReport_cases : (∃ w, s.fetch = some w ∧ decode w = .malformed w ∧ stepReport s = .malformed w s.pc) ∨
    (∃ c, s.Raises c ∧ stepReport s = .fault c s.pc) ∨ stepReport s = .ok := by
  obtain ⟨t, h⟩ := stepAlwaysReturns s
  cases hstatus : t.status with
  | halted c =>
    obtain ⟨-, hreport⟩ := terminalConditionIsPrecise s t c hrunning h hstatus
    exact .inr (.inl ⟨c, raises_of_step hrunning h hstatus, hreport⟩)
  | running =>
    by_cases hword : ∃ w w', s.fetch = some w ∧ decode w = .malformed w'
    · obtain ⟨w, w', hfetch, hdecode⟩ := hword
      have hdescribes := decode_describes w
      rw [hdecode] at hdescribes
      obtain ⟨rfl, -⟩ := hdescribes
      exact .inl ⟨_, hfetch, hdecode, stepReport_of_malformed hrunning hunpaused hfetch hdecode⟩
    · have hactive := (active_iff s).2 ⟨hrunning, hunpaused⟩
      have hreport := stepReport_of_not_malformed hactive h fun w w' hfetch hdecode => hword ⟨w, w', hfetch, hdecode⟩
      rw [hstatus] at hreport
      exact .inr (.inr hreport)

theorem stepReport_fault_iff (c : Terminal) (p : Word) : stepReport s = .fault c p ↔ p = s.pc ∧ s.Raises c := by
  constructor
  · intro h
    rcases stepReport_cases hrunning hunpaused with ⟨w, -, -, hreport⟩ | ⟨c', hraises, hreport⟩ | hreport
    all_goals cases h.symm.trans hreport
    exact ⟨rfl, hraises⟩
  · rintro ⟨rfl, hraises⟩
    have hstep := step_of_raises ((active_iff s).2 ⟨hrunning, hunpaused⟩) hraises
    exact (terminalConditionIsPrecise s _ c hrunning hstep rfl).2

theorem stepReport_malformed_iff (w p : Word) :
    stepReport s = .malformed w p ↔ p = s.pc ∧ s.fetch = some w ∧ decode w = .malformed w := by
  constructor
  · intro h
    rcases stepReport_cases hrunning hunpaused with ⟨w', hfetch, hdecode, hreport⟩ | ⟨c, -, hreport⟩ | hreport
    all_goals cases h.symm.trans hreport
    exact ⟨rfl, hfetch, hdecode⟩
  · rintro ⟨rfl, hfetch, hdecode⟩
    exact stepReport_of_malformed hrunning hunpaused hfetch hdecode

/-- R270: the codes of the loader, 16 and 17, are no step's. -/
theorem stepReport_code_lt : (stepReport s).code < 16 := by
  rcases stepReport_cases hrunning hunpaused with ⟨w, -, -, hreport⟩ | ⟨c, -, hreport⟩ | hreport
  · rw [hreport]; exact Nat.one_lt_ofNat
  · rw [hreport]; exact (c.code_le).trans_lt (by decide)
  · rw [hreport]; decide

end Reports

/-- Settles O11: a fault is reported exactly for what raises it (`State.Raises`), and a malformed word is never one of these. -/
theorem stepReportsExactlyTheseConditions : Obligations.StepReportsExactlyTheseConditions := by
  intro s hrunning hunpaused
  have hfault := stepReport_fault_iff hrunning hunpaused
  have hcode := stepReport_code_lt hrunning hunpaused
  refine ⟨hfault .overrun, hfault .stackOverflow, hfault .stackUnderflow, stepReport_malformed_iff hrunning hunpaused,
    fun n h => ?_, fun h => ?_⟩
  · rw [h] at hcode; exact absurd hcode (Nat.lt_irrefl 16)
  · rw [h] at hcode; exact absurd hcode (by decide)

/-! ## The timer countdown engine (R284) -/

theorem countDown_toNat (b : Byte) : (countDown b).toNat = b.toNat - 1 := by
  have := b.isLt
  exact (BitVec.toNat_ofNat _ 8).trans (Nat.mod_eq_of_lt (by omega))

theorem decrementTimers_of_running {s : State} (h : s.status = .running) :
    decrementTimers s = { s with dt := countDown s.dt, st := countDown s.st } := if_pos h

theorem decrementTimers_of_halted {s : State} (h : s.status ≠ .running) : decrementTimers s = s := if_neg h

/-- Settles O50: a running machine and a halted one. -/
theorem timersCountDown : Obligations.TimersCountDown := by
  refine fun s => ⟨fun hrunning => ?_, decrementTimers_of_halted⟩
  rw [decrementTimers_of_running hrunning]
  exact ⟨countDown_toNat s.dt, countDown_toNat s.st, rfl⟩

/-! ## The keypad latch (R286, R287) -/

theorem keyOfCode_eq_some {code : Int} {k : Key} : keyOfCode code = some k ↔ code = k.val := by
  unfold keyOfCode
  split
  · rw [Option.some_inj, Fin.ext_iff]; dsimp only; omega
  · simp only [reduceCtorEq, false_iff]; omega

theorem keyOfCode_eq_none {code : Int} : keyOfCode code = none ↔ code < 0 ∨ 16 ≤ code := by
  unfold keyOfCode
  split
  · simp only [reduceCtorEq, false_iff]; omega
  · simp only [true_iff]; omega

/-- What pressing (`held` true) and releasing (`held` false) have in common. -/
def latchKey (held : Bool) (code : Int) (s : State) : State :=
  match keyOfCode code with
  | some k => s.setKey k held
  | none => s

section Latch

variable (held : Bool) (code : Int) (s : State)

theorem press_eq_latchKey : press code s = latchKey true code s := rfl

theorem release_eq_latchKey : release code s = latchKey false code s := rfl

theorem State.setKey_keys_get (k q : Key) : (s.setKey k held).keys[q] = if q = k then held else s.keys[q] := by
  split
  · next h => subst h; simp
  · next h =>
    have hne : k.val ≠ q.val := fun e => h (Fin.ext e.symm)
    simp [Vector.getElem_set_ne, hne]

theorem latchKey_ignored {code : Int} (h : code < 0 ∨ 16 ≤ code) : latchKey held code s = s := by
  rw [latchKey, keyOfCode_eq_none.2 h]

theorem latchKey_keys_get (q : Key) : (latchKey held code s).keys[q] = if code = q.val then held else s.keys[q] := by
  cases hkey : keyOfCode code with
  | none =>
    have hcode := keyOfCode_eq_none.1 hkey
    rw [latchKey_ignored held s hcode, if_neg (by omega)]
  | some k =>
    have hcode := keyOfCode_eq_some.1 hkey
    have hsame : q = k ↔ code = q.val := by rw [Fin.ext_iff]; omega
    rw [latchKey, hkey]
    simp only [State.setKey_keys_get, hsame]

theorem latchKey_frame : latchKey held code s = { s with keys := (latchKey held code s).keys } := by
  unfold latchKey; split <;> rfl

end Latch

/-- Settles O51: the latch sets one entry of the keys, for the code of a key only. -/
theorem keysAndPauseFromOutside : Obligations.KeysAndPauseFromOutside := by
  refine fun s code => ⟨fun q => ?_, fun q => ?_, latchKey_frame true code s, latchKey_frame false code s,
    fun hcode => ⟨latchKey_ignored true s hcode, latchKey_ignored false s hcode⟩, rfl, rfl, rfl⟩
  · rw [press_eq_latchKey, latchKey_keys_get]
    by_cases hq : code = q.val <;> simp [hq]
  · rw [release_eq_latchKey, latchKey_keys_get]
    by_cases hq : code = q.val <;> simp [hq]

/-! ## Loading and the ROM switch (R311-R315) -/

section Loading

variable (s : State) {bytes : List Byte}

theorem storeBytes_fields (addr : Nat) (bytes : List Byte) :
    storeBytes s addr bytes = { s with mem := (storeBytes s addr bytes).mem } := by
  induction bytes generalizing s addr with
  | nil => rfl
  | cons b bs ih => rw [storeBytes, ih]; rfl

theorem loadRom_fits (h : bytes.length ≤ 3584) : loadRom (some bytes) s = (storeBytes s romBase bytes, .ok) :=
  if_neg (Nat.not_lt.2 h)

theorem loadRom_tooLarge (h : bytes.length > 3584) : loadRom (some bytes) s = (s, .romTooLarge bytes.length) := if_pos h

/-- R311-R313: loading writes memory only. -/
theorem loadRom_fields (rom : Option (List Byte)) : (loadRom rom s).1 = { s with mem := (loadRom rom s).1.mem } := by
  cases rom with
  | none => rfl
  | some bytes =>
    rcases Nat.lt_or_ge 3584 bytes.length with hlarge | hfits
    · rw [loadRom_tooLarge s hlarge]
    · rw [loadRom_fits s hfits]; exact storeBytes_fields s romBase bytes

theorem romSwitch_fits (h : bytes.length ≤ 3584) :
    romSwitch (some bytes) s = (storeBytes (freshMachine s) romBase bytes, .ok) := by
  rw [romSwitch, loadRom_fits _ h]

theorem romSwitch_tooLarge (h : bytes.length > 3584) : romSwitch (some bytes) s = (s, .romTooLarge bytes.length) := by
  rw [romSwitch, loadRom_tooLarge _ h]

/-- R315: a ROM switch keeps the machine, or it is of a ROM that fits and leaves a running one. -/
theorem romSwitch_cases (rom : Option (List Byte)) : (romSwitch rom s).1 = s ∨
    ∃ bytes, rom = some bytes ∧ bytes.length ≤ 3584 ∧ (romSwitch rom s).1.status = .running := by
  cases rom with
  | none => exact .inl rfl
  | some bytes =>
    rcases Nat.lt_or_ge 3584 bytes.length with hlarge | hfits
    · exact .inl (by rw [romSwitch_tooLarge s hlarge])
    · exact .inr ⟨bytes, rfl, hfits, by rw [romSwitch_fits s hfits, storeBytes_fields]; rfl⟩

end Loading

/-! ## A halted machine (R273) -/

/-- R319: a tick of a halted or paused machine. -/
theorem tick_of_inactive {s : State} (h : s.active = false) : tick s = (s, []) := by
  simp [tick, tickWith, h]

section Halted

variable {s : State} (hhalted : s.status ≠ .running)
include hhalted

theorem applyEvent_step_of_halted : applyEvent .step s = (s, .ok) := by
  obtain ⟨hstep, hreport⟩ := inactiveStepChangesNothing s (.inl hhalted)
  rw [applyEvent, stepState, hstep, hreport, outcomeState]

theorem applyEvent_decrementTimers_of_halted : applyEvent .decrementTimers s = (s, .ok) := by
  rw [applyEvent, decrementTimers_of_halted hhalted]

/-- D20: only a ROM switch that succeeds changes the status of a halted machine. -/
theorem romSwitch_of_status_changed {e : Event} (hchanged : (applyEvent e s).1.status ≠ s.status) :
    ∃ rom, e = .romSwitch (some rom) ∧ rom.length ≤ 3584 ∧ (applyEvent e s).1.status = .running := by
  cases e with
  | step => rw [applyEvent_step_of_halted hhalted] at hchanged; exact absurd rfl hchanged
  | decrementTimers => rw [applyEvent_decrementTimers_of_halted hhalted] at hchanged; exact absurd rfl hchanged
  | press code => exact absurd (congrArg State.status (latchKey_frame true code s)) hchanged
  | release code => exact absurd (congrArg State.status (latchKey_frame false code s)) hchanged
  | togglePause => exact absurd rfl hchanged
  | loadRom rom => exact absurd (congrArg State.status (loadRom_fields s rom)) hchanged
  | romSwitch rom =>
    rcases romSwitch_cases s rom with hkept | ⟨bytes, rfl, hfits, hrunning⟩
    · exact absurd (congrArg State.status hkept) hchanged
    · exact ⟨bytes, rfl, hfits, hrunning⟩

end Halted

/-- Settles O17: a halted machine is inactive, and the operations that still take effect on it write no status but a ROM
switch that succeeds. -/
theorem haltedMachineStaysHalted : Obligations.HaltedMachineStaysHalted := by
  intro s c hstatus
  have hhalted : s.status ≠ .running := by rw [hstatus]; exact Status.noConfusion
  refine ⟨applyEvent_step_of_halted hhalted, applyEvent_decrementTimers_of_halted hhalted,
    tick_of_inactive ((active_eq_false_iff s).2 (.inl hhalted)),
    fun code => ⟨latchKey_frame true code s, fun k hcode => ?_⟩,
    fun code => ⟨latchKey_frame false code s, fun k hcode => ?_⟩, rfl, fun e hchanged => ?_⟩
  · exact (latchKey_keys_get true code s k).trans (if_pos hcode)
  · exact (latchKey_keys_get false code s k).trans (if_pos hcode)
  · exact romSwitch_of_status_changed hhalted (hstatus.symm ▸ hchanged)

end Sys2Proof.Machine

/-! # Proofs: the family 70_reset_and_hazards.md -/

namespace Sys2Proof.Machine

/-! ## Reset, loading and the ROM switch (R310-R315) -/

/-- Settles O15: reset is the new machine at the default parameters. -/
theorem resetIsLegal : Obligations.ResetIsLegal := newMachine_inv defaultConfig 0

section StoredBytes

variable {s : State} {addr : Nat} {bytes : List Byte} (hfits : addr + bytes.length ≤ 4096)
include hfits

/-- R311: a byte outside the stored range is left alone. -/
theorem storeBytes_readMem_other {p : Nat} (hp : p < 4096) (houtside : p < addr ∨ addr + bytes.length ≤ p) :
    (storeBytes s addr bytes).readMem p = s.readMem p := by
  induction bytes generalizing s addr with
  | nil => rfl
  | cons b bs ih =>
    rw [List.length_cons] at hfits houtside
    rw [storeBytes, ih (by omega) (by omega), State.readMem_writeMem_other]
    omega

/-- R311: byte `j` of the list stands `j` bytes above the first address; the later stores do not reach it. -/
theorem storeBytes_readMem_at {j : Nat} (hj : j < bytes.length) :
    (storeBytes s addr bytes).readMem (addr + j) = bytes[j] := by
  induction bytes generalizing s addr j with
  | nil => exact absurd hj (Nat.not_lt_zero j)
  | cons b bs ih =>
    rw [List.length_cons] at hfits hj
    rw [storeBytes]
    cases j with
    | zero =>
      rw [storeBytes_readMem_other (by omega) (by omega) (by omega)]
      exact State.readMem_writeMem_same s addr addr b rfl
    | succ j =>
      have htail := ih (s := s.writeMem addr b) (addr := addr + 1) (by omega) (Nat.lt_of_succ_lt_succ hj)
      rw [Nat.add_right_comm] at htail
      exact htail

end StoredBytes

/-- Settles O53: at most 3584 bytes from 0x200 upward end inside memory, so no store wraps onto another one. -/
theorem romLoading : Obligations.RomLoading := by
  refine fun s => ⟨rfl, fun _ => loadRom_tooLarge s, fun bytes h => ⟨_, loadRom_fits s h, ?_⟩⟩
  have hfits : romBase + bytes.length ≤ 4096 := by rw [romBase]; omega
  exact ⟨fun j hj => storeBytes_readMem_at hfits hj, fun a ha houtside => storeBytes_readMem_other hfits ha houtside,
    storeBytes_fields s romBase bytes⟩

/-- Settles O54: a ROM that fits is loaded into the fresh machine, and a failure keeps `s`. -/
theorem romSwitchReplacesOrKeeps : Obligations.RomSwitchReplacesOrKeeps := by
  refine fun s => ⟨rfl, fun _ => romSwitch_tooLarge s, fun bytes h => ?_⟩
  rw [romSwitch_fits s h, loadRom_fits _ h]
  exact ⟨rfl, rfl⟩

/-! ## The steps of a tick (R317-R319) -/

/-- R38: no step writes `paused`. -/
theorem step_paused {s t : State} (h : step s = .next t) : t.paused = s.paused := by
  rcases step_cases h with ⟨-, rfl⟩ | ⟨-, -, rfl⟩ | ⟨w, -, -, ⟨i, -, hexec⟩ | ⟨-, rfl⟩ | ⟨-, rfl⟩⟩
  · rfl
  · rfl
  · exact (exec_fixed hexec).1
  · rfl
  · rfl

theorem stepState_of_step {s t : State} (h : step s = .next t) : stepState s = t := by
  rw [stepState, h, outcomeState]

theorem iterate_stepState_paused (k : Nat) (s : State) : (stepState^[k] s).paused = s.paused := by
  induction k generalizing s with
  | zero => rfl
  | succ k ih =>
    obtain ⟨t, h⟩ := stepAlwaysReturns s
    rw [Function.iterate_succ_apply, ih, stepState_of_step h, step_paused h]

/-- The reports of `k` steps from `s`, in their order. -/
def stepReports (k : Nat) (s : State) : List Report := (List.range k).map fun j => stepReport (stepState^[j] s)

theorem stepReports_succ (k : Nat) (s : State) : stepReports (k + 1) s = stepReport s :: stepReports k (stepState s) := by
  rw [stepReports, List.range_succ_eq_map, List.map_cons, List.map_map]; rfl

theorem stepReports_succ_last (k : Nat) (s : State) :
    stepReports (k + 1) s = stepReports k s ++ [stepReport (stepState^[k] s)] := by
  rw [stepReports, List.range_succ, List.map_append]; rfl

/-- The first `k` steps from `s` report no fault. -/
def NoFaultBefore (k : Nat) (s : State) : Prop := ∀ j < k, (stepReport (stepState^[j] s)).isFault = false

theorem NoFaultBefore.tail {k : Nat} {s : State} (h : NoFaultBefore (k + 1) s) : NoFaultBefore k (stepState s) :=
  fun j hj => h (j + 1) (Nat.succ_lt_succ hj)

section Tick

variable {s t : State} {between : List (List Event)} {reports : List Report}

/-- Where the other agents leave the machine alone before each of `k` steps and none of these faults, a batch of at least `k`
steps begins with them and goes on as the batch of the others. -/
theorem tickSteps_add {k m : Nat} {later : List (List Event)} {after : Option (List Event)}
    (hquiet : ∀ j < k, between.getD j [] = []) (hlater : between.drop k = later) (hok : NoFaultBefore k s)
    (hrest : tickSteps m later (stepState^[k] s) = (t, reports, after)) :
    tickSteps (k + m) between s = (t, stepReports k s ++ reports, after) := by
  induction k generalizing between s with
  | zero => subst hlater; rw [Nat.zero_add]; exact hrest
  | succ k ih =>
    have hhead : between.headD [] = [] := by cases between <;> exact hquiet 0 k.succ_pos
    have htail : ∀ j < k, between.tail.getD j [] = [] := fun j hj => by
      cases between <;> exact hquiet (j + 1) (Nat.succ_lt_succ hj)
    have hfirst : (stepReport s).isFault = false := hok 0 k.succ_pos
    rw [← List.drop_tail] at hlater
    rw [Nat.succ_add, tickSteps, hhead, runEvents, List.foldl_nil, hfirst, if_neg Bool.false_ne_true,
      ih htail hlater hok.tail hrest, stepReports_succ]
    rfl

/-- R317: a batch of `k` steps with nothing in between, none of which faults. -/
theorem tickSteps_of_noFault {k : Nat} (hok : NoFaultBefore k s) :
    tickSteps k [] s = (stepState^[k] s, stepReports k s, some []) := by
  have hsteps := tickSteps_add (between := []) (m := 0) (fun _ _ => rfl) List.drop_nil hok rfl
  rwa [Nat.add_zero, List.append_nil] at hsteps

/-- A batch of steps that each change nothing and report Ok. -/
theorem tickSteps_of_fixed (hstep : step s = .next s) (hreport : stepReport s = .ok) (k : Nat) :
    tickSteps k [] s = (s, List.replicate k .ok, some []) := by
  have hfixed (j : Nat) : stepState^[j] s = s := Function.iterate_fixed (stepState_of_step hstep) j
  have hok : NoFaultBefore k s := fun j _ => by rw [hfixed, hreport]; rfl
  have hreports : stepReports k s = List.replicate k .ok := by
    simp only [stepReports, hfixed, hreport, List.map_const', List.length_range]
  rw [tickSteps_of_noFault hok, hfixed, hreports]

variable (hactive : s.active = true)
include hactive

/-- R317: a tick whose steps are all done ends with the decrement, after what the other agents do before it. -/
theorem tickWith_of_completed {es : List Event} (h : tickSteps s.cfg.stepsPerTick between s = (t, reports, some es)) :
    tickWith between s = (tickEnd (runEvents es t), reports) := by
  rw [tickWith, if_pos hactive, h]

/-- R317: a tick that a fault cut short has no decrement. -/
theorem tickWith_of_fault (h : tickSteps s.cfg.stepsPerTick between s = (t, reports, none)) :
    tickWith between s = (t, reports) := by
  rw [tickWith, if_pos hactive, h]

theorem tick_of_completed (h : tickSteps s.cfg.stepsPerTick [] s = (t, reports, some [])) (hunpaused : t.paused = false) :
    tick s = (decrementTimers t, reports) := by
  rw [tick, tickWith_of_completed hactive h, runEvents, List.foldl_nil, tickEnd, hunpaused, if_neg Bool.false_ne_true]

theorem tick_of_noFault (hok : NoFaultBefore s.cfg.stepsPerTick s) :
    tick s = (decrementTimers (stepState^[s.cfg.stepsPerTick] s), stepReports s.cfg.stepsPerTick s) :=
  tick_of_completed hactive (tickSteps_of_noFault hok)
    ((iterate_stepState_paused _ s).trans ((active_iff s).1 hactive).2)

theorem tick_of_fault {k : Nat} (hk : k < s.cfg.stepsPerTick) (hok : NoFaultBefore k s)
    (hfault : (stepReport (stepState^[k] s)).isFault = true) : tick s = (stepState^[k + 1] s, stepReports (k + 1) s) := by
  obtain ⟨m, hm⟩ := Nat.exists_eq_add_of_lt hk
  have hlast : tickSteps (m + 1) [] (stepState^[k] s) =
      (stepState (stepState^[k] s), [stepReport (stepState^[k] s)], none) := if_pos hfault
  have hsteps := tickSteps_add (fun _ _ => rfl) List.drop_nil hok hlast
  rw [← Nat.add_assoc, ← hm] at hsteps
  rw [tick, tickWith_of_fault hactive hsteps, stepReports_succ_last, Function.iterate_succ_apply']

end Tick

/-- Settles O55: the batch of steps runs up to its end or to the first fault. -/
theorem tickIsStepsThenDecrement : Obligations.TickIsStepsThenDecrement := by
  refine fun s => ⟨fun h => tick_of_inactive ((active_eq_false_iff s).2 h), fun hrunning hunpaused hok => ?_,
    fun hrunning hunpaused k hk hok hfault => ?_⟩
  · exact tick_of_noFault ((active_iff s).2 ⟨hrunning, hunpaused⟩) hok
  · exact tick_of_fault ((active_iff s).2 ⟨hrunning, hunpaused⟩) hk hok hfault

/-! ## A pause during a tick (R318) -/

/-- A pause that falls before the next step of a tick, or before its decrement, is all that is left of the tick. -/
theorem tickSteps_togglePause (m : Nat) {s : State} (hunpaused : s.paused = false) :
    ∃ t reports es, tickSteps m [[.togglePause]] s = (t, reports, some es) ∧ tickEnd (runEvents es t) = togglePause s := by
  have hpaused : (togglePause s).paused = true := by rw [togglePause, hunpaused]; rfl
  have hend : tickEnd (togglePause s) = togglePause s := if_pos hpaused
  cases m with
  | zero => exact ⟨s, [], [.togglePause], rfl, hend⟩
  | succ m =>
    obtain ⟨hstep, hreport⟩ := inactiveStepChangesNothing (togglePause s) (.inr hpaused)
    exact ⟨togglePause s, _, [], tickSteps_of_fixed hstep hreport (m + 1), hend⟩

/-- Settles O56: `k` steps without a fault, then what `tickSteps_togglePause` says is left. -/
theorem pauseStopsTick : Obligations.PauseStopsTick := by
  refine fun s => ⟨fun hpaused => tick_of_inactive ((active_eq_false_iff s).2 (.inr hpaused)),
    fun hrunning hunpaused k hk hok => ?_⟩
  obtain ⟨m, hm⟩ := Nat.exists_eq_add_of_le hk
  have hquiet : ∀ j < k, (List.replicate k [] ++ [[Event.togglePause]]).getD j [] = [] := fun j hj => by
    rw [List.getD_append _ _ _ _ (by rwa [List.length_replicate])]
    exact List.getD_replicate _ hj
  obtain ⟨t, reports, es, hrest, hend⟩ := tickSteps_togglePause m ((iterate_stepState_paused k s).trans hunpaused)
  have hsteps := tickSteps_add hquiet (List.drop_left' List.length_replicate) hok hrest
  rw [← hm] at hsteps
  rw [tickWith_of_completed ((active_iff s).2 ⟨hrunning, hunpaused⟩) hsteps, hend]

/-! ## A waiting Fx0A (R322) -/

/-- Settles O57: a waiting Fx0A is a step that changes nothing and reports Ok. -/
theorem keyWaitBusyPolls : Obligations.KeyWaitBusyPolls := by
  intro s w x hrunning hunpaused hfetch hdecode hnone
  have hactive := (active_iff s).2 ⟨hrunning, hunpaused⟩
  have hstep : step s = .next s := by
    rw [step_of_fetch hactive hfetch, hdecode, execDecoded, exec_ldVxK_wait x (State.heldKeys_eq_nil_iff.2 hnone)]
  have hreport : stepReport s = .ok := by
    rw [stepReport_of_not_malformed hactive hstep, hrunning, terminalReport]
    intro w' w'' hfetch'
    cases hfetch.symm.trans hfetch'
    rw [hdecode]; exact Decoded.noConfusion
  exact tick_of_completed hactive (tickSteps_of_fixed hstep hreport _) hunpaused

end Sys2Proof.Machine
